-- ==== Sys2Proof/Word.lean ====
section
/-! DEFINITION. The words of the block: bytes, Sample Words and RGB pixels (spec/10_state.md R11, R16, R19;
spec/30_encoding.md R51, R56). -/

namespace Sys2Proof

/-- An unsigned 8-bit byte (R11: a byte of BUF; R16: a channel of an RGB Pixel). -/
abbrev Byte := BitVec 8

/-- A 32-bit Sample Word (R51). -/
abbrev SampleWord := BitVec 32

/-- An RGB Pixel: "a triple of unsigned 8-bit values" (R16, R56). -/
structure Pixel where
  r : Byte
  g : Byte
  b : Byte
  deriving DecidableEq, Repr, Inhabited

/-- A destination position `(x, y)`: column and row (R6). -/
structure Pos where
  x : Nat
  y : Nat
  deriving DecidableEq, Repr, Inhabited

end Sys2Proof
end

