-- ==== Sys2Proof/Config.lean ====
section
/-! DEFINITION. What this hardware fixes (its dimensions, spec/00_scope.md R4) and the free values: results the
spec leaves open, each an opaque constant of which nothing can be evaluated or proved. -/

namespace Sys2Proof.Config

/-- `W = 720` (R4, R13: 10 bits suffice). -/
def hardwiredW : BitVec 10 := 720#10

/-- `H = 480` (R4, R13: 9 bits suffice). -/
def hardwiredH : BitVec 9 := 480#9

/-- Free value. The content of a BUF byte the host has not written (R25: "unspecified"). Log 7. -/
opaque unwrittenByte (address : Nat) : Byte

/-- Free value. What the `draw`-th read of a raster cell that is not handed over returns
(spec/93_implementation_defined.md U3: "any value (a free draw)"). Log 6. -/
opaque freePixel (draw : Nat) : Pixel

/-- Free value. `ROWIDX` of RD.ROW.P1 at `y = 0`, which is no odd row: R101 states the result for odd `y`
and `y - 1` would be negative. Log 15. -/
opaque rowIdxBelowZero : Nat

/-- Free value. `PAIROFF` of RD.COL.O at `x = 0`, which is no odd column: R103 states the result for odd `x`
and `x - 1` would be negative. Log 15. -/
opaque pairOffBelowZero : Nat

/-- Free value. The channel CSC.TRUNC writes for a value outside [0, 255]: R86 states the result for an input
in [0, 255]. Log 16. -/
opaque truncOutOfRange (q : Rat) : Byte

end Sys2Proof.Config
end

