-- ==== Sys2Proof/Syntax.lean ====
section
/-! DEFINITION. The operations of spec/opcode_table.json, one constructor of `Instr` per row, and the places a
word can stand at. The bits of the spec's formats overlap (spec/30_encoding.md R50, R54, R60): which operation a word
selects depends on where in the block it stands, which `Slot` names (log 1). -/

namespace Sys2Proof

/-- The formats of R50. -/
inductive Format where
  | sel       -- the 2-bit parity selector (R54)
  | sw        -- the 32-bit Sample Word (R51)
  | pixel     -- the 24-bit raster cell (R56)
  | cmd       -- the host's 2-bit event code with its operand (R55)
  | internal  -- no bits (R60, CMD.DONE)
  | pseudo    -- no bits (R63)
  deriving DecidableEq, Repr

/-- Where a word stands: the stages of one PIX (R60, in dataflow order), the host's command port, the
completion step, and the composite operations of R63. -/
inductive Slot where
  | next | row | col | offs | chk | fetch | split | lsel | center
  | cscR | cscG | cscB | bias | clamp | trunc | store
  | cmd | done | pix | extract | convert | normalize | decode
  deriving DecidableEq, Repr

/-- The format of the word that stands at a slot (`format` of opcode_table.json; a `pix` word is a SEL word). -/
def Slot.format : Slot → Format
  | .next | .row | .col | .offs | .chk | .fetch | .lsel | .center => .sel
  | .cscR | .cscG | .cscB | .bias | .clamp | .trunc | .pix => .sel
  | .split => .sw
  | .store => .pixel
  | .cmd => .cmd
  | .done => .internal
  | .extract | .convert | .normalize | .decode => .pseudo

/-- The position in the dataflow of one PIX (`stage` of opcode_table.json; equal numbers may run together). -/
def Slot.stage : Slot → Option Nat
  | .next => some 0
  | .row => some 1
  | .col => some 2
  | .offs => some 3
  | .chk => some 4
  | .fetch => some 5
  | .split => some 6
  | .lsel => some 7
  | .center => some 8
  | .cscR | .cscG | .cscB => some 9
  | .bias => some 10
  | .clamp => some 11
  | .trunc => some 12
  | .store => some 13
  | .done => some 14
  | .cmd | .pix | .extract | .convert | .normalize | .decode => none

/-- One encoded operation: the place it stands at and its bytes. -/
structure OpWord where
  slot  : Slot
  bytes : List Byte
  deriving DecidableEq, Repr

/-- The operations. `sel`, `rp` and `cp` are the bits of a SEL word that the row's pattern leaves free; an
operation that runs for every SEL does not depend on them (log 27). DESIGN CHOICE: EXTRACT's offset has 32 bits, the
width of LEN (R12), where R77 says only "a byte address" (log 28); DECODE's length is the `len` of CMD.START (R125,
R120). -/
inductive Instr where
  | rdNext
  | rdRowP0 (cp : BitVec 1)
  | rdRowP1 (cp : BitVec 1)
  | rdColE (rp : BitVec 1)
  | rdColO (rp : BitVec 1)
  | rdOffs (sel : BitVec 2)
  | bxChk (sel : BitVec 2)
  | bxFetch (sel : BitVec 2)
  | bxSplit (word : SampleWord)
  | bxLselE (rp : BitVec 1)
  | bxLselO (rp : BitVec 1)
  | bxCenter (sel : BitVec 2)
  | cscR (sel : BitVec 2)
  | cscG (sel : BitVec 2)
  | cscB (sel : BitVec 2)
  | cscBias (sel : BitVec 2)
  | cscClamp (sel : BitVec 2)
  | cscTrunc (sel : BitVec 2)
  | rdStore (r g b : Byte)
  | cmdStatus
  | cmdStart (len : BitVec 32)
  | cmdRdpix (x : BitVec 10) (y : BitVec 9)
  | cmdReserved
  | cmdDone
  | pixEE (x : BitVec 10) (y : BitVec 9)
  | pixEO (x : BitVec 10) (y : BitVec 9)
  | pixOE (x : BitVec 10) (y : BitVec 9)
  | pixOO (x : BitVec 10) (y : BitVec 9)
  | extract (offset : BitVec 32) (parity : BitVec 1)
  | convert (yc uc vc : BitVec 8)
  | normalize (v : Byte)
  | decodeFrame (n : BitVec 32)
  deriving DecidableEq, Repr

end Sys2Proof
end

