-- ==== Sys2Proof/WellFormed.lean ====
section
/-! DEFINITION. Which operations are well-formed. A PIX names the variant its position selects and a position of the
raster (spec/42_raster_decoder.md R107, spec/30_encoding.md R54); every other operation is well-formed by the widths of
its operands. -/

namespace Sys2Proof

/-- `SEL = {y % 2, x % 2}` as a number (R54). -/
def selNumber (x y : Nat) : Nat := 2 * (y % 2) + x % 2

/-- The operands of the PIX variant numbered `sel`: the parities are the variant's own (R54), and
"`0 <= x < W`, `0 <= y < H`" (R107). -/
def pixOperandsOk (sel : Nat) (x : BitVec 10) (y : BitVec 9) : Bool :=
  selNumber x.toNat y.toNat == sel && decide (x.toNat < Config.hardwiredW.toNat) &&
    decide (y.toNat < Config.hardwiredH.toNat)

/-- Well-formed operations. -/
def Instr.wellFormed : Instr → Bool
  | .pixEE x y => pixOperandsOk 0 x y
  | .pixEO x y => pixOperandsOk 1 x y
  | .pixOE x y => pixOperandsOk 2 x y
  | .pixOO x y => pixOperandsOk 3 x y
  | .rdNext | .rdRowP0 _ | .rdRowP1 _ | .rdColE _ | .rdColO _ | .rdOffs _ => true
  | .bxChk _ | .bxFetch _ | .bxSplit _ | .bxLselE _ | .bxLselO _ | .bxCenter _ => true
  | .cscR _ | .cscG _ | .cscB _ | .cscBias _ | .cscClamp _ | .cscTrunc _ => true
  | .rdStore _ _ _ | .cmdStatus | .cmdStart _ | .cmdRdpix _ _ | .cmdReserved | .cmdDone => true
  | .extract _ _ | .convert _ _ _ | .normalize _ | .decodeFrame _ => true

end Sys2Proof
end

