-- ==== Sys2Proof/Decode.lean ====
section
/-! DEFINITION. The decoder: total on any bytes at any slot, rejecting by name. After it the encoder, and the rows of
spec/opcode_table.json. The two-bit and wider formats are the spec's (spec/30_encoding.md R51, R54, R55, R56); how an
operand wider than the format is laid out in bytes is the model's own (log 2). -/

namespace Sys2Proof

/-- Why a word is not decoded. -/
inductive DecodeError where
  | wrongLength         -- not the number of bytes the slot takes
  | paddingNotZero      -- a bit outside the format and its operands is set
  | selectorMismatch    -- a PIX word whose SEL is not {y % 2, x % 2} (R54)
  | positionOutOfRange  -- a PIX word with x >= W or y >= H (R107)
  deriving DecidableEq, Repr

/-! ## Bytes and fields -/

/-- Four bytes, the first the most significant: the order of a Sample Word (R32). -/
def beWord (m0 m1 m2 m3 : Byte) : BitVec 32 := m0 ++ m1 ++ m2 ++ m3

/-- The bytes `m0 … m3` of a Sample Word, in memory order (R32, R51). -/
def beBytes (w : BitVec 32) : List Byte :=
  [w.extractLsb' 24 8, w.extractLsb' 16 8, w.extractLsb' 8 8, w.extractLsb' 0 8]

/-- A 32-bit operand from its bytes, the first the least significant (log 2). -/
def leWord (b0 b1 b2 b3 : Byte) : BitVec 32 := b3 ++ b2 ++ b1 ++ b0

/-- The bytes of a 32-bit operand, the least significant first (log 2). -/
def leBytes (v : BitVec 32) : List Byte :=
  [v.extractLsb' 0 8, v.extractLsb' 8 8, v.extractLsb' 16 8, v.extractLsb' 24 8]

/-- The two bytes of a 10-bit column (log 2). -/
def colBytes (x : BitVec 10) : List Byte := [x.extractLsb' 0 8, (x.extractLsb' 8 2).setWidth 8]

/-- The two bytes of a 9-bit row (log 2). -/
def rowBytes (y : BitVec 9) : List Byte := [y.extractLsb' 0 8, (y.extractLsb' 8 1).setWidth 8]

/-- The column of two bytes, where the six bits above it are 0. -/
def colOf (lo hi : Byte) : Option (BitVec 10) :=
  if hi.toNat < 4 then some ((hi.setWidth 2 : BitVec 2) ++ lo) else none

/-- The row of two bytes, where the seven bits above it are 0. -/
def rowOf (lo hi : Byte) : Option (BitVec 9) :=
  if hi.toNat < 2 then some ((hi.setWidth 1 : BitVec 1) ++ lo) else none

/-- A SEL word in its byte: bit 1 is RP, bit 0 is CP (R54). -/
def selByte (sel : BitVec 2) : Byte := sel.setWidth 8

/-- `{RP, CP}` (R54). -/
def selOfBits (rp cp : BitVec 1) : BitVec 2 := rp ++ cp

/-- RP of a SEL word: bit 1 (R54). -/
def rpOf (sel : BitVec 2) : BitVec 1 := sel.extractLsb' 1 1

/-- CP of a SEL word: bit 0 (R54). -/
def cpOf (sel : BitVec 2) : BitVec 1 := sel.extractLsb' 0 1

/-! ## Decoding -/

/-- A SEL word alone. -/
def decodeSel (k : BitVec 2 → Instr) : List Byte → Except DecodeError Instr
  | [b] => if b.toNat < 4 then .ok (k (b.setWidth 2)) else .error .paddingNotZero
  | _ => .error .wrongLength

/-- A host command: the event code, then its operand field (R55). -/
def decodeCmd : List Byte → Except DecodeError Instr
  | [ev, b0, b1, b2, b3] =>
    match ev.toNat with
    | 0 => if leWord b0 b1 b2 b3 = 0#32 then .ok .cmdStatus else .error .paddingNotZero
    | 1 => .ok (.cmdStart (leWord b0 b1 b2 b3))
    | 2 =>
      match colOf b0 b1, rowOf b2 b3 with
      | some x, some y => .ok (.cmdRdpix x y)
      | _, _ => .error .paddingNotZero
    | 3 => .ok .cmdReserved
    | _ => .error .paddingNotZero
  | _ => .error .wrongLength

/-- The PIX variant a SEL value selects (R54). -/
def pixVariant (sel : Nat) (x : BitVec 10) (y : BitVec 9) : Instr :=
  match sel with
  | 0 => .pixEE x y
  | 1 => .pixEO x y
  | 2 => .pixOE x y
  | _ => .pixOO x y

/-- A PIX word: SEL, then `x`, then `y`. -/
def decodePix : List Byte → Except DecodeError Instr
  | [s, x0, x1, y0, y1] =>
    match colOf x0 x1, rowOf y0 y1 with
    | some x, some y =>
      if Config.hardwiredW.toNat ≤ x.toNat ∨ Config.hardwiredH.toNat ≤ y.toNat then .error .positionOutOfRange
      else if s.toNat = selNumber x.toNat y.toNat then .ok (pixVariant s.toNat x y)
      else .error .selectorMismatch
    | _, _ => .error .paddingNotZero
  | _ => .error .wrongLength

/-- EXTRACT: the parity, then the offset. -/
def decodeExtract : List Byte → Except DecodeError Instr
  | [p, b0, b1, b2, b3] =>
    if p.toNat < 2 then .ok (.extract (leWord b0 b1 b2 b3) (p.setWidth 1)) else .error .paddingNotZero
  | _ => .error .wrongLength

/-- The decoder. At a slot whose rows split on RP or CP, that bit chooses the row and the other bit is the
row's free bit (opcode_table.json, `mask` and `match`). -/
def decode (w : OpWord) : Except DecodeError Instr :=
  match w.slot with
  | .next => decodeSel (fun _ => .rdNext) w.bytes
  | .row => decodeSel (fun s => if rpOf s = 0#1 then .rdRowP0 (cpOf s) else .rdRowP1 (cpOf s)) w.bytes
  | .col => decodeSel (fun s => if cpOf s = 0#1 then .rdColE (rpOf s) else .rdColO (rpOf s)) w.bytes
  | .offs => decodeSel .rdOffs w.bytes
  | .chk => decodeSel .bxChk w.bytes
  | .fetch => decodeSel .bxFetch w.bytes
  | .split =>
    match w.bytes with
    | [m0, m1, m2, m3] => .ok (.bxSplit (beWord m0 m1 m2 m3))
    | _ => .error .wrongLength
  | .lsel => decodeSel (fun s => if cpOf s = 0#1 then .bxLselE (rpOf s) else .bxLselO (rpOf s)) w.bytes
  | .center => decodeSel .bxCenter w.bytes
  | .cscR => decodeSel .cscR w.bytes
  | .cscG => decodeSel .cscG w.bytes
  | .cscB => decodeSel .cscB w.bytes
  | .bias => decodeSel .cscBias w.bytes
  | .clamp => decodeSel .cscClamp w.bytes
  | .trunc => decodeSel .cscTrunc w.bytes
  | .store =>
    match w.bytes with
    | [r, g, b] => .ok (.rdStore r g b)
    | _ => .error .wrongLength
  | .cmd => decodeCmd w.bytes
  | .done =>
    match w.bytes with
    | [] => .ok .cmdDone
    | _ => .error .wrongLength
  | .pix => decodePix w.bytes
  | .extract => decodeExtract w.bytes
  | .convert =>
    match w.bytes with
    | [yc, uc, vc] => .ok (.convert yc uc vc)
    | _ => .error .wrongLength
  | .normalize =>
    match w.bytes with
    | [v] => .ok (.normalize v)
    | _ => .error .wrongLength
  | .decode =>
    match w.bytes with
    | [b0, b1, b2, b3] => .ok (.decodeFrame (leWord b0 b1 b2 b3))
    | _ => .error .wrongLength

/-! ## Encoding -/

/-- A PIX word. -/
def pixBytes (sel : BitVec 2) (x : BitVec 10) (y : BitVec 9) : List Byte :=
  selByte sel :: (colBytes x ++ rowBytes y)

/-- The encoder. -/
def encode : Instr → OpWord
  | .rdNext => ⟨.next, [selByte 0#2]⟩
  | .rdRowP0 cp => ⟨.row, [selByte (selOfBits 0#1 cp)]⟩
  | .rdRowP1 cp => ⟨.row, [selByte (selOfBits 1#1 cp)]⟩
  | .rdColE rp => ⟨.col, [selByte (selOfBits rp 0#1)]⟩
  | .rdColO rp => ⟨.col, [selByte (selOfBits rp 1#1)]⟩
  | .rdOffs sel => ⟨.offs, [selByte sel]⟩
  | .bxChk sel => ⟨.chk, [selByte sel]⟩
  | .bxFetch sel => ⟨.fetch, [selByte sel]⟩
  | .bxSplit word => ⟨.split, beBytes word⟩
  | .bxLselE rp => ⟨.lsel, [selByte (selOfBits rp 0#1)]⟩
  | .bxLselO rp => ⟨.lsel, [selByte (selOfBits rp 1#1)]⟩
  | .bxCenter sel => ⟨.center, [selByte sel]⟩
  | .cscR sel => ⟨.cscR, [selByte sel]⟩
  | .cscG sel => ⟨.cscG, [selByte sel]⟩
  | .cscB sel => ⟨.cscB, [selByte sel]⟩
  | .cscBias sel => ⟨.bias, [selByte sel]⟩
  | .cscClamp sel => ⟨.clamp, [selByte sel]⟩
  | .cscTrunc sel => ⟨.trunc, [selByte sel]⟩
  | .rdStore r g b => ⟨.store, [r, g, b]⟩
  | .cmdStatus => ⟨.cmd, 0#8 :: leBytes 0#32⟩
  | .cmdStart len => ⟨.cmd, 1#8 :: leBytes len⟩
  | .cmdRdpix x y => ⟨.cmd, 2#8 :: (colBytes x ++ rowBytes y)⟩
  | .cmdReserved => ⟨.cmd, 3#8 :: leBytes 0#32⟩
  | .cmdDone => ⟨.done, []⟩
  | .pixEE x y => ⟨.pix, pixBytes 0#2 x y⟩
  | .pixEO x y => ⟨.pix, pixBytes 1#2 x y⟩
  | .pixOE x y => ⟨.pix, pixBytes 2#2 x y⟩
  | .pixOO x y => ⟨.pix, pixBytes 3#2 x y⟩
  | .extract offset parity => ⟨.extract, parity.setWidth 8 :: leBytes offset⟩
  | .convert yc uc vc => ⟨.convert, [yc, uc, vc]⟩
  | .normalize v => ⟨.normalize, [v]⟩
  | .decodeFrame n => ⟨.decode, leBytes n⟩

/-! ## The opcode table -/

/-- One row of spec/opcode_table.json: where it stands, its width in bits, its `mask` and its `match`. -/
structure Row where
  mnemonic : String
  slot     : Slot
  width    : Nat
  mask     : Nat
  value    : Nat
  deriving DecidableEq, Repr

/-- The rows of the Raster Decoder. -/
def rdRows : List Row :=
  [⟨"RD.NEXT", .next, 2, 0, 0⟩, ⟨"RD.ROW.P0", .row, 2, 2, 0⟩, ⟨"RD.ROW.P1", .row, 2, 2, 2⟩,
   ⟨"RD.COL.E", .col, 2, 1, 0⟩, ⟨"RD.COL.O", .col, 2, 1, 1⟩, ⟨"RD.OFFS", .offs, 2, 0, 0⟩,
   ⟨"RD.STORE", .store, 24, 0, 0⟩]

/-- The rows of the Byte Extractor. -/
def bxRows : List Row :=
  [⟨"BX.CHK", .chk, 2, 0, 0⟩, ⟨"BX.FETCH", .fetch, 2, 0, 0⟩, ⟨"BX.SPLIT", .split, 32, 0, 0⟩,
   ⟨"BX.LSEL.E", .lsel, 2, 1, 0⟩, ⟨"BX.LSEL.O", .lsel, 2, 1, 1⟩, ⟨"BX.CENTER", .center, 2, 0, 0⟩]

/-- The rows of the colourspace conversion. -/
def cscRows : List Row :=
  [⟨"CSC.R", .cscR, 2, 0, 0⟩, ⟨"CSC.G", .cscG, 2, 0, 0⟩, ⟨"CSC.B", .cscB, 2, 0, 0⟩,
   ⟨"CSC.BIAS", .bias, 2, 0, 0⟩, ⟨"CSC.CLAMP", .clamp, 2, 0, 0⟩, ⟨"CSC.TRUNC", .trunc, 2, 0, 0⟩]

/-- The rows of the host interface. -/
def cmdRows : List Row :=
  [⟨"CMD.STATUS", .cmd, 2, 3, 0⟩, ⟨"CMD.START", .cmd, 2, 3, 1⟩, ⟨"CMD.RDPIX", .cmd, 2, 3, 2⟩,
   ⟨"CMD.RESERVED", .cmd, 2, 3, 3⟩, ⟨"CMD.DONE", .done, 0, 0, 0⟩]

/-- The rows of the composite operations. -/
def compositeRows : List Row :=
  [⟨"PIX.EE", .pix, 2, 3, 0⟩, ⟨"PIX.EO", .pix, 2, 3, 1⟩, ⟨"PIX.OE", .pix, 2, 3, 2⟩, ⟨"PIX.OO", .pix, 2, 3, 3⟩,
   ⟨"EXTRACT", .extract, 0, 0, 0⟩, ⟨"CONVERT", .convert, 0, 0, 0⟩, ⟨"NORMALIZE", .normalize, 0, 0, 0⟩,
   ⟨"DECODE", .decode, 0, 0, 0⟩]

/-- All rows of opcode_table.json. -/
def opcodeRows : List Row := rdRows ++ bxRows ++ cscRows ++ cmdRows ++ compositeRows

/-- "the row applies when `value & mask = match`" (spec/30_encoding.md, how to read opcode_table.json). -/
def Row.applies (row : Row) (value : Nat) : Bool := value &&& row.mask == row.value

/-- The mnemonic of an operation, as the table spells it. -/
def Instr.mnemonic : Instr → String
  | .rdNext => "RD.NEXT"
  | .rdRowP0 _ => "RD.ROW.P0"
  | .rdRowP1 _ => "RD.ROW.P1"
  | .rdColE _ => "RD.COL.E"
  | .rdColO _ => "RD.COL.O"
  | .rdOffs _ => "RD.OFFS"
  | .bxChk _ => "BX.CHK"
  | .bxFetch _ => "BX.FETCH"
  | .bxSplit _ => "BX.SPLIT"
  | .bxLselE _ => "BX.LSEL.E"
  | .bxLselO _ => "BX.LSEL.O"
  | .bxCenter _ => "BX.CENTER"
  | .cscR _ => "CSC.R"
  | .cscG _ => "CSC.G"
  | .cscB _ => "CSC.B"
  | .cscBias _ => "CSC.BIAS"
  | .cscClamp _ => "CSC.CLAMP"
  | .cscTrunc _ => "CSC.TRUNC"
  | .rdStore _ _ _ => "RD.STORE"
  | .cmdStatus => "CMD.STATUS"
  | .cmdStart _ => "CMD.START"
  | .cmdRdpix _ _ => "CMD.RDPIX"
  | .cmdReserved => "CMD.RESERVED"
  | .cmdDone => "CMD.DONE"
  | .pixEE _ _ => "PIX.EE"
  | .pixEO _ _ => "PIX.EO"
  | .pixOE _ _ => "PIX.OE"
  | .pixOO _ _ => "PIX.OO"
  | .extract _ _ => "EXTRACT"
  | .convert _ _ _ => "CONVERT"
  | .normalize _ => "NORMALIZE"
  | .decodeFrame _ => "DECODE"

/-- The row of an operation. -/
def Instr.row (i : Instr) : Option Row := opcodeRows.find? (fun row => row.mnemonic == i.mnemonic)

/-- The value of a word's format bits: the number the table's mask and match are compared with. -/
def OpWord.formatValue (w : OpWord) : Nat :=
  match w.slot.format, w.bytes with
  | .sel, b :: _ => b.toNat
  | .cmd, b :: _ => b.toNat
  | .sw, [m0, m1, m2, m3] => (beWord m0 m1 m2 m3).toNat
  | .pixel, [r, g, b] => (r ++ g ++ b).toNat
  | _, _ => 0

/-! ## Words as the opcode table numbers their bits -/

/-- The word of `nbits` bits `w` (all bits above `nbits` zero), laid out as the hardware stores it, at the place a
word of that size enters the block: 32 bits are a Sample Word, 24 bits a raster cell, no bits the completion step, and
8 bits a host command, the only word that reaches the block from outside (log 1). -/
def tableOpWord (nbits w : Nat) : OpWord :=
  let v := w % 2 ^ nbits
  match nbits with
  | 0 => ⟨.done, []⟩
  | 8 | 40 => ⟨.cmd, BitVec.ofNat 8 v :: leBytes (BitVec.ofNat 32 (v / 256))⟩
  | 24 => ⟨.store, [BitVec.ofNat 8 (v / 65536), BitVec.ofNat 8 (v / 256), BitVec.ofNat 8 v]⟩
  | 32 => ⟨.split, beBytes (BitVec.ofNat 32 v)⟩
  | _ => ⟨.cmd, []⟩

/-- The instruction the decoder reads from a table word. -/
def decodeTableWord (nbits w : Nat) : Option Instr := (decode (tableOpWord nbits w)).toOption

end Sys2Proof
end

