-- ==== Sys2Proof/Machine/State.lean ====
section
/-! DEFINITION. The state of the block as plain data (spec/10_state.md), the reasons a step can stop, and the state
after reset. -/

namespace Sys2Proof.Machine

/-- `STATUS.ST` (R14). Its 2-bit codes are in Flags.lean. -/
inductive Status where
  | idle   -- no decode has been started since reset
  | busy   -- a decode is in progress
  | done   -- the last decode completed
  | error  -- the last decode failed
  deriving DecidableEq, Repr

/-- `ERRCODE` (R15, R134). The reserved code 0b11 is "never produced" and has no constructor. -/
inductive ErrCode where
  | none
  | length    -- ERR_LENGTH: Empty/Truncated Input
  | internal  -- ERR_INTERNAL: Unexpected Internal Error
  deriving DecidableEq, Repr

/-- The source space (R30, R31): address and byte pairs, addresses strictly rising. An address that is not
listed has not been written by the host (log 7). -/
abbrev Memory := List Host.Cell

/-- The raster space (R38): linear cell index `y*W + x` and pixel, indexes strictly rising. A cell that is not
listed holds no value (R16). -/
abbrev Raster := List (Nat × Pixel)

/-- The transient values of one pixel operation (R19). A PIX works on a copy of its own; this record lets an
operation run alone (logs 3, 4). Integers are unbounded (R90), the channels exact rationals (R80). -/
structure Latches where
  x : Nat
  y : Nat
  sel : BitVec 2
  rowIdx : Nat
  base : Nat
  pairOff : Nat
  par : BitVec 1
  offset : Nat
  word : SampleWord
  u : Byte
  y1 : Byte
  v : Byte
  y2 : Byte
  luma : Byte
  yc : Int
  uc : Int
  vc : Int
  r : Rat
  g : Rat
  b : Rat
  rs : Rat
  gs : Rat
  bs : Rat
  rk : Rat
  gk : Rat
  bk : Rat
  pr : Byte
  pg : Byte
  pb : Byte
  deriving DecidableEq, Repr

/-- The transient values at zero. DESIGN CHOICE (log 3): R19 gives them no reset value. Unsafe. -/
def Latches.zero : Latches :=
  { x := 0, y := 0, sel := 0, rowIdx := 0, base := 0, pairOff := 0, par := 0, offset := 0, word := 0, u := 0, y1 := 0,
    v := 0, y2 := 0, luma := 0, yc := 0, uc := 0, vc := 0, r := 0, g := 0, b := 0, rs := 0, gs := 0, bs := 0, rk := 0,
    gk := 0, bk := 0, pr := 0, pg := 0, pb := 0 }

/-- What an operation that returns a value answered (log 10). -/
inductive Reply where
  | none
  | status (st : Status) (err : ErrCode)  -- CMD.STATUS (R122), the end of WAIT (R63)
  | pixel (p : Pixel)                     -- CMD.RDPIX (R123), CONVERT (R87)
  | yuv (yc uc vc : Int)                  -- EXTRACT (R77)
  | sample (v : Int)                      -- NORMALIZE (R59, R75)
  | raster (cells : List Pixel)           -- DECODE (R125), row-major
  | error (err : ErrCode)                 -- DECODE (R125), a raise of EXTRACT (R77)
  deriving DecidableEq, Repr

/-- What stands at the port, from the host or for stand-alone use (log 8). -/
inductive Event where
  | op (w : OpWord)                          -- an operation: a host command (R55), or one presented alone
  | operands (l : Latches)                   -- the inputs of operations presented alone (R63: "MNEMONIC inputs -> outputs")
  | fill (address : Nat) (bytes : List Byte) -- the host writes into BUF (R63 FILL, R124)
  | reset                                    -- reset (R150)
  | wait                                     -- repeat CMD.STATUS until ST is not BUSY (R63 WAIT)
  | turn                                     -- the decoder moves before the next host event
  deriving DecidableEq, Repr

/-- Why a run stops with a fault. -/
inductive Fault where
  /-- BX.FETCH run alone with a byte address that is not below LEN, or a host write outside the 32-bit source space:
  "addresses are byte addresses `0 … LEN-1`" (R31). Safe: the model stops (log 14). -/
  | sourceOutOfRange
  /-- RD.STORE or a PIX run alone at a position outside `[0, W) × [0, H)`, which the raster space does not have
  (R38). Safe: the model stops (log 14). -/
  | rasterOutOfRange
  deriving DecidableEq, Repr

/-- Why there is no next state. -/
inductive Refusal where
  /-- An operation whose arm has no meaning yet. Raised by exec. Safe. -/
  | notModelled (mnemonic : String)
  /-- The event code 0b11: "a model refuses it (no meaning)" (R61). Raised by CMD.RESERVED. Safe. -/
  | reservedEvent
  /-- CMD.START while BUSY "has no meaning" (R127). Raised by CMD.START and DECODE. Safe (log 11). -/
  | startWhileBusy
  /-- CMD.RDPIX with `x >= W` or `y >= H`: "the command is refused (no meaning)" (R123). Safe. -/
  | rdpixOutOfRange
  /-- RD.NEXT or CMD.DONE where its enabling condition does not hold (R106, R121), and BX.CHK, EXTRACT or a PIX in
  ERROR (R140). Raised by these. Safe (logs 13, 29). -/
  | notEnabled
  /-- A decode with dimensions that are odd or below 2 (spec/93_implementation_defined.md U6). Raised by CMD.START and
  DECODE, in no state with the hardwired dimensions. Safe (log 18). -/
  | unsupportedDimensions
  /-- A host write to BUF while BUSY (R44: "the host has no move that writes `BUF` while `ST = BUSY`"). Raised by the
  port. A premise of every claim: unsafe where a host does it (log 12). -/
  | bufWriteWhileBusy
  /-- A word at the port that the decoder rejects. Safe (log 2). -/
  | undecodable (e : DecodeError)
  deriving DecidableEq, Repr

/-- The state: BUF, LEN, CFG_W, CFG_H, STATUS, ERRCODE, RASTER, PEND (R10), the transient values (R19), and the
model's own fields reply, port, choices and draws. -/
structure State where
  buf : Memory
  len : BitVec 32
  cfgW : BitVec 10
  cfgH : BitVec 9
  status : Status
  errcode : ErrCode
  raster : Raster
  pend : List Pos
  lat : Latches
  reply : Reply
  port : List Event
  choices : List Nat
  draws : Nat
  deriving DecidableEq, Repr

/-- The state after reset (R25). BUF is "unspecified": nothing is listed (log 7). The fields from `lat` on are DESIGN
CHOICES (logs 3, 5, 6, 8, 10). -/
def State.reset : State :=
  { buf := [], len := 0#32, cfgW := Config.hardwiredW, cfgH := Config.hardwiredH, status := .idle, errcode := .none,
    raster := [], pend := [], lat := Latches.zero, reply := .none, port := [], choices := [], draws := 0 }

end Sys2Proof.Machine
end

