-- ==== Sys2Proof/Machine/Flags.lean ====
section
/-! DEFINITION. The codes of the status registers and the flag derived from them. "The only flag-like state is
`STATUS` and `ERRCODE`" (spec/10_state.md R22): no operation computes a carry, zero, sign or overflow flag. -/

namespace Sys2Proof.Machine

/-- The 2-bit code of `ST` (R14). -/
def Status.code : Status → BitVec 2
  | .idle => 0b00#2
  | .busy => 0b01#2
  | .done => 0b10#2
  | .error => 0b11#2

/-- The 2-bit code of `ERRCODE` (R15, R134). -/
def ErrCode.code : ErrCode → BitVec 2
  | .none => 0b00#2
  | .length => 0b01#2
  | .internal => 0b10#2

/-- "The derived flag `RASTER_VALID` is `ST = DONE`" (R14). -/
def State.rasterValid (s : State) : Bool := s.status == .done

end Sys2Proof.Machine
end

