-- ==== Sys2Proof/Machine/Operands.lean ====
section
/-! DEFINITION. Operand assembly (spec/30_encoding.md R53, R54, R56, R59) and the arithmetic helpers of
spec/00_scope.md R6. -/

namespace Sys2Proof.Machine

/-! ## The Sample Word (R51, R53): "by shift and mask on the 32-bit unsigned word" -/

/-- `U = (WORD >> 24) & 0xFF`. -/
def wordU (w : SampleWord) : Byte := ((w >>> 24) &&& 0xFF#32).setWidth 8

/-- `Y1 = (WORD >> 16) & 0xFF`. -/
def wordY1 (w : SampleWord) : Byte := ((w >>> 16) &&& 0xFF#32).setWidth 8

/-- `V = (WORD >> 8) & 0xFF`. -/
def wordV (w : SampleWord) : Byte := ((w >>> 8) &&& 0xFF#32).setWidth 8

/-- `Y2 = WORD & 0xFF`. -/
def wordY2 (w : SampleWord) : Byte := (w &&& 0xFF#32).setWidth 8

/-! ## Centring, selector, pixel word -/

/-- `normalize(v) = v - 128`, on integers (R59). -/
def normalizeByte (v : Byte) : Int := (v.toNat : Int) - 128

/-- `SEL = {y % 2, x % 2}` (R54). -/
def selOf (x y : Nat) : BitVec 2 := BitVec.ofNat 2 (selNumber x y)

/-- The 24-bit cell word `{R, G, B}` (R56). -/
def pixelWord (p : Pixel) : BitVec 24 := p.r ++ p.g ++ p.b

/-! ## Exact arithmetic (R6, R80) -/

/-- `clamp(q, lo, hi)`: "`lo` if `q < lo`, `hi` if `q > hi`, else `q`; it is defined on rationals" (R6). -/
def clampRat (q lo hi : Rat) : Rat := if q < lo then lo else if hi < q then hi else q

/-- `trunc(q)`: "`q` with its fractional part removed (rounding toward zero)" (R6). -/
def truncRat (q : Rat) : Int := q.num.tdiv q.den

/-- A channel from a clamped value (R86). Outside [0, 255], which R86 does not give, a free value (log 16). -/
def channelOf (q : Rat) : Byte :=
  if 0 ≤ truncRat q ∧ truncRat q ≤ 255 then BitVec.ofInt 8 (truncRat q) else Config.truncOutOfRange q

/-- `K_RV = 1.3983` (R58, R80). -/
def kRV : Rat := 13983 / 10000

/-- `K_GU = 0.39465` (R58, R80). -/
def kGU : Rat := 39465 / 100000

/-- `K_GV = 0.5806` (R58, R80). -/
def kGV : Rat := 5806 / 10000

/-- `K_BU = 2.03211` (R58, R80). -/
def kBU : Rat := 203211 / 100000

/-- `BIAS = 128` (R58, R84). -/
def bias : Rat := 128

end Sys2Proof.Machine
end

