-- ==== Sys2Proof/Machine/Ops.lean ====
section
/-! DEFINITION. The named operations over the two memories, the pending set, the free values and the raise. -/

namespace Sys2Proof.Machine

/-! ## Lists of key and value pairs with strictly rising keys -/

/-- The value at a key. -/
def assocRead {α : Type} : List (Nat × α) → Nat → Option α
  | [], _ => none
  | (k, v) :: rest, a => if a = k then some v else assocRead rest a

/-- Set the value at a key, keeping the keys in order. -/
def assocWrite {α : Type} : List (Nat × α) → Nat → α → List (Nat × α)
  | [], a, x => [(a, x)]
  | (k, v) :: rest, a, x =>
    if a < k then (a, x) :: (k, v) :: rest
    else if a = k then (a, x) :: rest
    else (k, v) :: assocWrite rest a x

/-- Set the values at consecutive keys. -/
def assocWriteList {α : Type} : List (Nat × α) → Nat → List α → List (Nat × α)
  | m, _, [] => m
  | m, a, x :: xs => assocWriteList (assocWrite m a x) (a + 1) xs

/-- The canonical form: keys strictly rising. -/
def keysRising {α : Type} : List (Nat × α) → Bool
  | [] => true
  | [_] => true
  | (k, _) :: (k', v') :: rest => decide (k < k') && keysRising ((k', v') :: rest)

/-- The canonical form of the source memory. An address that is not listed reads as no value (log 7), so no entry
can equal it. -/
def Memory.wf (m : Memory) : Bool := keysRising m

/-- The canonical form of the raster. -/
def Raster.wf (m : Raster) : Bool := keysRising m

/-! ## Dimensions (R4, R13) -/

/-- `W`, as a number. -/
def State.w (s : State) : Nat := s.cfgW.toNat

/-- `H`, as a number. -/
def State.h (s : State) : Nat := s.cfgH.toNat

/-- `FRAME_BYTES = 2*W*H` (R4). -/
def State.frameBytes (s : State) : Nat := 2 * s.w * s.h

/-- "`W` is even and at least 2, `H` is even and at least 2" (R5). -/
def State.dimensionsOk (s : State) : Bool :=
  s.w % 2 == 0 && decide (2 ≤ s.w) && s.h % 2 == 0 && decide (2 ≤ s.h)

/-- `(x, y)` is a position of the raster (R38). -/
def State.inRaster (s : State) (x y : Nat) : Bool := decide (x < s.w) && decide (y < s.h)

/-! ## The source space (R30 to R34) -/

/-- `BUF[a]` (R6). A byte the host has not written is a free value (log 7). -/
def State.bufByte (s : State) (a : Nat) : Byte := (assocRead s.buf a).getD (Config.unwrittenByte a)

/-- `MemRead(a, 4)`, big-endian: "the byte at the lowest address is the most significant" (R32). -/
def State.memRead4 (s : State) (a : Nat) : SampleWord :=
  beWord (s.bufByte a) (s.bufByte (a + 1)) (s.bufByte (a + 2)) (s.bufByte (a + 3))

/-- The bounds test of BX.CHK, in unbounded integers (R70, R90). -/
def State.offsetOk (s : State) (offset : Nat) : Bool := decide (offset + 4 ≤ s.len.toNat)

/-- The host writes bytes into BUF from an address on (R63 FILL): not while BUSY (R44), and inside the 32-bit source
space (R12, R31). -/
def hostFill (a : Nat) (bytes : List Byte) (s : State) : Host.Outcome State Fault Refusal :=
  if s.status = .busy then .refused .bufWriteWhileBusy
  else if a + bytes.length ≤ 2 ^ 32 then .next { s with buf := assocWriteList s.buf a bytes }
  else .fault .sourceOutOfRange

/-! ## The raster space (R38) -/

/-- "the linear cell index is `y*W + x`" (R38). -/
def State.cellIndex (s : State) (x y : Nat) : Nat := y * s.w + x

/-- `RASTER[y][x]`: a pixel, or no value (R16). -/
def State.cell (s : State) (x y : Nat) : Option Pixel :=
  if s.inRaster x y then assocRead s.raster (s.cellIndex x y) else none

/-- `RASTER[y][x] <- p` (R38, R105). -/
def storePixel (x y : Nat) (p : Pixel) (s : State) : Host.Outcome State Fault Refusal :=
  if s.inRaster x y then .next { s with raster := assocWrite s.raster (s.cellIndex x y) p }
  else .fault .rasterOutOfRange

/-- The byte view of the raster: "the byte address of channel `c` (`0 = R`, `1 = G`, `2 = B`) of pixel `(x, y)` is
`3*(y*W + x) + c`" (R38). -/
def State.rasterByte (s : State) (a : Nat) : Option Byte :=
  (s.cell (a / 3 % s.w) (a / 3 / s.w)).map fun p =>
    match a % 3 with
    | 0 => p.r
    | 1 => p.g
    | _ => p.b

/-! ## The pending set (R18) -/

/-- The positions of row `y`, columns rising. -/
def rowPositions (w y : Nat) : List Pos := (List.range w).map fun x => ⟨x, y⟩

/-- All `W*H` positions, in the row-major order of R106 ("`y` outer, `x` inner", D6). -/
def allPositions (w h : Nat) : List Pos := (List.range h).flatMap fun y => rowPositions w y

/-! ## Free values -/

/-- The index RD.NEXT draws among `n` pending positions: the next free choice, reduced to the range; with no choice
left the first, which is the row-major order R106 names for a simulator (log 5). -/
def State.choiceIndex (s : State) : Nat := s.choices.headD 0 % s.pend.length

/-- One free choice is used up. -/
def State.dropChoice (s : State) : State := { s with choices := s.choices.tail }

/-! ## Raising an error, the one exception of the block (R137) -/

/-- `raise`: "`ST <- ERROR`; `ERRCODE <-` the error's code; `PEND <- empty`"; LEN and BUF are kept and nothing is saved
(R137). There is no return from it: the ERROR state is left by the next CMD.START or by reset (R139). -/
def raise (e : ErrCode) (s : State) : State := { s with status := .error, errcode := e, pend := [] }

/-- An operation that can raise ErrInternal: "in the ERROR state no operation that can raise is enabled except
`CMD.START`" (R140), so errors do not nest. What is not enabled is refused (logs 13, 29). -/
def unlessError (s : State) (o : Host.Outcome State Fault Refusal) : Host.Outcome State Fault Refusal :=
  if s.status = .error then .refused .notEnabled else o

/-- What CMD.START does before its length test, and so how the ERROR state is left (R120, R139): LEN is latched,
ERRCODE cleared, every raster cell emptied. -/
def beginDecode (len : BitVec 32) (s : State) : State := { s with len := len, errcode := .none, raster := [] }

/-- Reset in any state (R25, R150): BUF untouched, the hardwired values as they are. The port, the free choices
and the draw counter are not the block's own and stay (log 20). -/
def applyReset (s : State) : State :=
  { State.reset with buf := s.buf, cfgW := s.cfgW, cfgH := s.cfgH, port := s.port, choices := s.choices,
                     draws := s.draws }

end Sys2Proof.Machine
end

