-- ==== Sys2Proof/Machine/ByteExtractor.lean ====
section
/-! DEFINITION. The Byte Extractor: the BX family and EXTRACT (spec/40_byte_extractor.md). Each operation is a function
on the transient values; its meaning applies it to `lat`. -/

namespace Sys2Proof.Machine

/-- BX.FETCH: `WORD <- MemRead(OFFSET, 4)` (R71). -/
def fetch (s : State) (l : Latches) : Latches := { l with word := s.memRead4 l.offset }

/-- BX.SPLIT: the four samples of a word (R72). -/
def split (w : SampleWord) (l : Latches) : Latches := { l with u := wordU w, y1 := wordY1 w, v := wordV w, y2 := wordY2 w }

/-- BX.LSEL.E: `LUMA <- Y1` (R73). -/
def lselE (l : Latches) : Latches := { l with luma := l.y1 }

/-- BX.LSEL.O: `LUMA <- Y2` (R74). -/
def lselO (l : Latches) : Latches := { l with luma := l.y2 }

/-- BX.CENTER: `yc <- LUMA - 128`, `uc <- U - 128`, `vc <- V - 128` (R75). -/
def center (l : Latches) : Latches :=
  { l with yc := normalizeByte l.luma, uc := normalizeByte l.u, vc := normalizeByte l.v }

/-- What follows the bounds check in EXTRACT: fetch, split, the luma selection by parity, centring (R77). -/
def extractWord (s : State) (l : Latches) : Latches :=
  let l := fetch s l
  let l := split l.word l
  center (if l.par = 0#1 then lselE l else lselO l)

/-- EXTRACT on the transient values: nothing where BX.CHK raises (R77, R70). -/
def extractLat (s : State) (l : Latches) : Option Latches := if s.offsetOk l.offset then some (extractWord s l) else none

/-- BX.CHK (R70): "if OFFSET + 4 > LEN then raise ErrInternal(OFFSET)"; it writes nothing where it passes. Not
enabled in ERROR (R140, log 29); that it raises outside a decode too is log 17. -/
def execBxChk (_sel : BitVec 2) (s : State) : Host.Outcome State Fault Refusal :=
  unlessError s (if s.offsetOk s.lat.offset then .next s else .next (raise .internal s))

/-- BX.FETCH (R71). Alone, without BX.CHK before it, an address that does not exist faults (log 14). -/
def execBxFetch (_sel : BitVec 2) (s : State) : Host.Outcome State Fault Refusal :=
  if s.offsetOk s.lat.offset then .next { s with lat := fetch s s.lat } else .fault .sourceOutOfRange

/-- BX.SPLIT (R72): the word that stands at the split stage is WORD (R51). -/
def execBxSplit (word : SampleWord) (s : State) : Host.Outcome State Fault Refusal :=
  .next { s with lat := split word s.lat }

/-- BX.LSEL.E (R73): it runs "when `PAR = 0`". Run alone with `PAR = 1`, of which R60 and R73 say nothing, it does the
same. DESIGN CHOICE (log 15). -/
def execBxLselE (_rp : BitVec 1) (s : State) : Host.Outcome State Fault Refusal := .next { s with lat := lselE s.lat }

/-- BX.LSEL.O (R74): it runs "when `PAR = 1`". Run alone with `PAR = 0`, of which R60 and R74 say nothing, it does the
same. DESIGN CHOICE (log 15). -/
def execBxLselO (_rp : BitVec 1) (s : State) : Host.Outcome State Fault Refusal := .next { s with lat := lselO s.lat }

/-- BX.CENTER (R75). -/
def execBxCenter (_sel : BitVec 2) (s : State) : Host.Outcome State Fault Refusal :=
  .next { s with lat := center s.lat }

/-- EXTRACT (R77): returns `(yc, uc, vc)`; "it writes no state". Where BX.CHK raises, the raise is R137's
(log 17); not enabled in ERROR (R140, log 29). The 32 bits of the offset are log 28. -/
def execExtract (offset : BitVec 32) (parity : BitVec 1) (s : State) : Host.Outcome State Fault Refusal :=
  unlessError s <|
    match extractLat s { s.lat with offset := offset.toNat, par := parity } with
    | some l => .next { s with reply := .yuv l.yc l.uc l.vc }
    | none => .next { raise .internal s with reply := .error .internal }

/-- NORMALIZE (R59, R75): one lane of BX.CENTER, returns `v - 128`. -/
def execNormalize (v : Byte) (s : State) : Host.Outcome State Fault Refusal :=
  .next { s with reply := .sample (normalizeByte v) }

end Sys2Proof.Machine
end

