-- ==== Sys2Proof/Machine/Colourspace.lean ====
section
/-! DEFINITION. The colourspace conversion: the CSC family and CONVERT (spec/41_colorspace_conversion.md), in exact
rational arithmetic (R80). -/

namespace Sys2Proof.Machine

/-- CSC.R: `r <- yc + (13983/10000) * vc` (R81). -/
def combineR (l : Latches) : Latches := { l with r := l.yc + kRV * l.vc }

/-- CSC.G: `g <- yc - (39465/100000) * uc - (5806/10000) * vc` (R82). -/
def combineG (l : Latches) : Latches := { l with g := l.yc - kGU * l.uc - kGV * l.vc }

/-- CSC.B: `b <- yc + (203211/100000) * uc` (R83). -/
def combineB (l : Latches) : Latches := { l with b := l.yc + kBU * l.uc }

/-- CSC.BIAS: each channel shifted by +128 (R84). -/
def addBias (l : Latches) : Latches := { l with rs := l.r + bias, gs := l.g + bias, bs := l.b + bias }

/-- CSC.CLAMP: each channel saturated to [0, 255], before truncation (R85). -/
def clampChannels (l : Latches) : Latches :=
  { l with rk := clampRat l.rs 0 255, gk := clampRat l.gs 0 255, bk := clampRat l.bs 0 255 }

/-- CSC.TRUNC: each channel truncated toward zero (R86). -/
def truncChannels (l : Latches) : Latches := { l with pr := channelOf l.rk, pg := channelOf l.gk, pb := channelOf l.bk }

/-- CONVERT on the transient values: "`CSC.R ; CSC.G ; CSC.B ; CSC.BIAS ; CSC.CLAMP ; CSC.TRUNC`" (R87). -/
def convertLat (l : Latches) : Latches := truncChannels (clampChannels (addBias (combineB (combineG (combineR l)))))

/-- The RGB Pixel of the transient values (R19). -/
def latPixel (l : Latches) : Pixel := ⟨l.pr, l.pg, l.pb⟩

/-- CSC.R (R81). -/
def execCscR (_sel : BitVec 2) (s : State) : Host.Outcome State Fault Refusal := .next { s with lat := combineR s.lat }

/-- CSC.G (R82). -/
def execCscG (_sel : BitVec 2) (s : State) : Host.Outcome State Fault Refusal := .next { s with lat := combineG s.lat }

/-- CSC.B (R83). -/
def execCscB (_sel : BitVec 2) (s : State) : Host.Outcome State Fault Refusal := .next { s with lat := combineB s.lat }

/-- CSC.BIAS (R84). -/
def execCscBias (_sel : BitVec 2) (s : State) : Host.Outcome State Fault Refusal :=
  .next { s with lat := addBias s.lat }

/-- CSC.CLAMP (R85). -/
def execCscClamp (_sel : BitVec 2) (s : State) : Host.Outcome State Fault Refusal :=
  .next { s with lat := clampChannels s.lat }

/-- CSC.TRUNC (R86). -/
def execCscTrunc (_sel : BitVec 2) (s : State) : Host.Outcome State Fault Refusal :=
  .next { s with lat := truncChannels s.lat }

/-- CONVERT (R87): returns the RGB Pixel of a centred sample, given in 8-bit two's complement (R19). -/
def execConvert (yc uc vc : BitVec 8) (s : State) : Host.Outcome State Fault Refusal :=
  .next { s with reply := .pixel (latPixel (convertLat { s.lat with yc := yc.toInt, uc := uc.toInt, vc := vc.toInt })) }

end Sys2Proof.Machine
end

