-- ==== Sys2Proof/Machine/RasterDecoder.lean ====
section
/-! DEFINITION. The Raster Decoder: the RD family and the pixel operation PIX (spec/42_raster_decoder.md). -/

namespace Sys2Proof.Machine

/-! ## Address and parity generation -/

/-- RD.ROW.P0: `ROWIDX <- y // 2`, `BASE <- ROWIDX * W * 2` (R100). -/
def rowP0 (w : Nat) (l : Latches) : Latches := { l with rowIdx := l.y / 2, base := l.y / 2 * w * 2 }

/-- `(y - 1) // 2` of R101; a free value at `y = 0`, which is no odd row (log 15). -/
def oddRowIdx (y : Nat) : Nat := if y = 0 then Config.rowIdxBelowZero else (y - 1) / 2

/-- RD.ROW.P1: `ROWIDX <- (y - 1) // 2`, `BASE <- W * H + ROWIDX * W * 2` (R101). -/
def rowP1 (w h : Nat) (l : Latches) : Latches :=
  { l with rowIdx := oddRowIdx l.y, base := w * h + oddRowIdx l.y * w * 2 }

/-- RD.COL.E: `PAIROFF <- x * 2`, `PAR <- 0` (R102). -/
def colE (l : Latches) : Latches := { l with pairOff := l.x * 2, par := 0#1 }

/-- `(x - 1) * 2` of R103; a free value at `x = 0`, which is no odd column (log 15). -/
def oddPairOff (x : Nat) : Nat := if x = 0 then Config.pairOffBelowZero else (x - 1) * 2

/-- RD.COL.O: `PAIROFF <- (x - 1) * 2`, `PAR <- 1` (R103). -/
def colO (l : Latches) : Latches := { l with pairOff := oddPairOff l.x, par := 1#1 }

/-- RD.OFFS: `OFFSET <- BASE + PAIROFF` (R104). -/
def offs (l : Latches) : Latches := { l with offset := l.base + l.pairOff }

/-- RD.ROW.P0 (R100). -/
def execRdRowP0 (_cp : BitVec 1) (s : State) : Host.Outcome State Fault Refusal :=
  .next { s with lat := rowP0 s.w s.lat }

/-- RD.ROW.P1 (R101). -/
def execRdRowP1 (_cp : BitVec 1) (s : State) : Host.Outcome State Fault Refusal :=
  .next { s with lat := rowP1 s.w s.h s.lat }

/-- RD.COL.E (R102). -/
def execRdColE (_rp : BitVec 1) (s : State) : Host.Outcome State Fault Refusal := .next { s with lat := colE s.lat }

/-- RD.COL.O (R103). -/
def execRdColO (_rp : BitVec 1) (s : State) : Host.Outcome State Fault Refusal := .next { s with lat := colO s.lat }

/-- RD.OFFS (R104). -/
def execRdOffs (_sel : BitVec 2) (s : State) : Host.Outcome State Fault Refusal := .next { s with lat := offs s.lat }

/-- RD.STORE (R105): the cell word that stands at the store stage is `{R, G, B}` (R56); the cell is the
pixel's own `(x, y)`. -/
def execRdStore (r g b : Byte) (s : State) : Host.Outcome State Fault Refusal :=
  storePixel s.lat.x s.lat.y ⟨r, g, b⟩ s

/-! ## One pixel -/

/-- The transient values of a PIX up to RD.OFFS, the row and column operations chosen by SEL (R107, R54). -/
def addressLat (sel : BitVec 2) (x y : Nat) (s : State) : Latches :=
  let l : Latches := { s.lat with x := x, y := y, sel := sel }
  let l := if rpOf sel = 0#1 then rowP0 s.w l else rowP1 s.w s.h l
  offs (if cpOf sel = 0#1 then colE l else colO l)

/-- PIX (R107): the address, EXTRACT, CONVERT, RD.STORE. The transient values are its own and end with it
(R19, log 4); a BX.CHK that fails raises (R70). Not enabled in ERROR (R140, log 29). -/
def runPixel (sel : BitVec 2) (x y : Nat) (s : State) : Host.Outcome State Fault Refusal :=
  unlessError s <|
    match extractLat s (addressLat sel x y s) with
    | some l => storePixel x y (latPixel (convertLat l)) s
    | none => .next (raise .internal s)

/-- PIX.EE (R107). -/
def execPixEE (x : BitVec 10) (y : BitVec 9) (s : State) : Host.Outcome State Fault Refusal :=
  runPixel 0b00#2 x.toNat y.toNat s

/-- PIX.EO (R107). -/
def execPixEO (x : BitVec 10) (y : BitVec 9) (s : State) : Host.Outcome State Fault Refusal :=
  runPixel 0b01#2 x.toNat y.toNat s

/-- PIX.OE (R107). -/
def execPixOE (x : BitVec 10) (y : BitVec 9) (s : State) : Host.Outcome State Fault Refusal :=
  runPixel 0b10#2 x.toNat y.toNat s

/-- PIX.OO (R107). -/
def execPixOO (x : BitVec 10) (y : BitVec 9) (s : State) : Host.Outcome State Fault Refusal :=
  runPixel 0b11#2 x.toNat y.toNat s

/-! ## The next pixel -/

/-- "`PEND <- PEND` without `(x, y)`" (R106), the position being the one at index `i`. -/
def removePending (i : Nat) : Host.Outcome State Fault Refusal → Host.Outcome State Fault Refusal
  | .next t => .next { t with pend := t.pend.eraseIdx i }
  | .fault f => .fault f
  | .refused r => .refused r

/-- RD.NEXT (R106): "enabled when ST = BUSY and PEND is not empty"; a free choice of a pending position (log 5),
SEL, PIX, and the position leaves PEND. After a raise PEND is empty and stays so. -/
def execRdNext (s : State) : Host.Outcome State Fault Refusal :=
  if s.status = .busy then
    match s.pend[s.choiceIndex]? with
    | some p => removePending s.choiceIndex (runPixel (selOf p.x p.y) p.x p.y s.dropChoice)
    | none => .refused .notEnabled
  else .refused .notEnabled

end Sys2Proof.Machine
end

