-- ==== Sys2Proof/Machine/Command.lean ====
section
/-! DEFINITION. The host command interface: the CMD family, the decoder's own step, and DECODE
(spec/43_command_interface.md). -/

namespace Sys2Proof.Machine

/-- CMD.START (R120): latch the length, check it, start a decode or raise ErrLength. Refused while BUSY (R127, log 11)
and for dimensions R5 does not admit (U6, log 18). -/
def execCmdStart (len : BitVec 32) (s : State) : Host.Outcome State Fault Refusal :=
  if s.status = .busy then .refused .startWhileBusy
  else if s.dimensionsOk = false then .refused .unsupportedDimensions
  else if len.toNat = s.frameBytes then
    .next { beginDecode len s with pend := allPositions s.w s.h, status := .busy }
  else .next (raise .length (beginDecode len s))

/-- CMD.DONE (R121): "enabled when ST = BUSY and PEND is empty; ST <- DONE". -/
def execCmdDone (s : State) : Host.Outcome State Fault Refusal :=
  if s.status = .busy ∧ s.pend = [] then .next { s with status := .done } else .refused .notEnabled

/-- CMD.STATUS (R122): returns `(ST, ERRCODE)`. -/
def execCmdStatus (s : State) : Host.Outcome State Fault Refusal :=
  .next { s with reply := .status s.status s.errcode }

/-- The pixel a read of a cell of the raster returns, and the state after it: "if ST = DONE then return
RASTER[y][x] else return an unspecified value" (R123); also of a cell with no value (U3). The unspecified value is a
free draw (log 6). -/
def readCell (x y : Nat) (s : State) : Pixel × State :=
  match s.status, s.cell x y with
  | .done, some p => (p, s)
  | _, _ => (Config.freePixel s.draws, { s with draws := s.draws + 1 })

/-- CMD.RDPIX (R123): out-of-range coordinates are refused. -/
def execCmdRdpix (x : BitVec 10) (y : BitVec 9) (s : State) : Host.Outcome State Fault Refusal :=
  if s.inRaster x.toNat y.toNat then
    .next { (readCell x.toNat y.toNat s).2 with reply := .pixel (readCell x.toNat y.toNat s).1 }
  else .refused .rdpixOutOfRange

/-- The reserved event code 0b11: "a model refuses it (no meaning)" (R61). -/
def execCmdReserved (_s : State) : Host.Outcome State Fault Refusal := .refused .reservedEvent

/-! ## The decoder's own move -/

/-- One move of the decoder: CMD.DONE when nothing is pending, else RD.NEXT (R106, R121). Outside BUSY "it is simply
not running" (R147) and nothing changes (log 22). -/
def decoderStep (s : State) : Host.Outcome State Fault Refusal :=
  if s.status = .busy then if s.pend = [] then execCmdDone s else execRdNext s else .next s

/-- At most `n` moves of the decoder, ending where ST is not BUSY: WAIT of R63. -/
def runDecoder : Nat → State → Host.Outcome State Fault Refusal
  | 0, s => .next s
  | n + 1, s =>
    if s.status = .busy then
      match decoderStep s with
      | .next t => runDecoder n t
      | .fault f => .fault f
      | .refused r => .refused r
    else .next s

/-- CMD.RDPIX of each of the positions in turn. -/
def readCells : List Pos → State → List Pixel × State
  | [], s => ([], s)
  | p :: ps, s =>
    let (c, t) := readCell p.x p.y s
    let (cs, t') := readCells ps t
    (c :: cs, t')

/-- The end of DECODE: "if `ST = DONE`, `RDPIX` of every cell" (R63), else the error (R125). -/
def decodeReply (s : State) : State :=
  if s.status = .done then
    let (cs, t) := readCells (allPositions s.w s.h) s
    { t with reply := .raster cs }
  else { s with reply := .error s.errcode }

/-- DECODE (R125, R63): "`START len; WAIT;` then, if `ST = DONE`, `RDPIX` of every cell", on the BUF as it stands
(log 19). The end is reached within "`W*H + 1`" steps. -/
def execDecodeFrame (n : BitVec 32) (s : State) : Host.Outcome State Fault Refusal :=
  match execCmdStart n s with
  | .next t =>
    match runDecoder (s.w * s.h + 1) t with
    | .next t' => .next (decodeReply t')
    | .fault f => .fault f
    | .refused r => .refused r
  | .fault f => .fault f
  | .refused r => .refused r

end Sys2Proof.Machine
end

