-- ==== Sys2Proof/Machine/Dispatch.lean ====
section
/-! DEFINITION. The dispatch: one arm per operation of spec/opcode_table.json. -/

namespace Sys2Proof.Machine

def exec (i : Instr) (s : State) : Host.Outcome State Fault Refusal :=
  match i with
  -- Raster Decoder
  | .rdNext => Sys2Proof.Machine.execRdNext s
  | .rdRowP0 cp => Sys2Proof.Machine.execRdRowP0 cp s
  | .rdRowP1 cp => Sys2Proof.Machine.execRdRowP1 cp s
  | .rdColE rp => Sys2Proof.Machine.execRdColE rp s
  | .rdColO rp => Sys2Proof.Machine.execRdColO rp s
  | .rdOffs sel => Sys2Proof.Machine.execRdOffs sel s
  -- Byte Extractor
  | .bxChk sel => Sys2Proof.Machine.execBxChk sel s
  | .bxFetch sel => Sys2Proof.Machine.execBxFetch sel s
  | .bxSplit word => Sys2Proof.Machine.execBxSplit word s
  | .bxLselE rp => Sys2Proof.Machine.execBxLselE rp s
  | .bxLselO rp => Sys2Proof.Machine.execBxLselO rp s
  | .bxCenter sel => Sys2Proof.Machine.execBxCenter sel s
  -- Colourspace conversion
  | .cscR sel => Sys2Proof.Machine.execCscR sel s
  | .cscG sel => Sys2Proof.Machine.execCscG sel s
  | .cscB sel => Sys2Proof.Machine.execCscB sel s
  | .cscBias sel => Sys2Proof.Machine.execCscBias sel s
  | .cscClamp sel => Sys2Proof.Machine.execCscClamp sel s
  | .cscTrunc sel => Sys2Proof.Machine.execCscTrunc sel s
  | .rdStore r g b => Sys2Proof.Machine.execRdStore r g b s
  -- Host commands and completion
  | .cmdStatus => Sys2Proof.Machine.execCmdStatus s
  | .cmdStart len => Sys2Proof.Machine.execCmdStart len s
  | .cmdRdpix x y => Sys2Proof.Machine.execCmdRdpix x y s
  | .cmdReserved => Sys2Proof.Machine.execCmdReserved s
  | .cmdDone => Sys2Proof.Machine.execCmdDone s
  -- Composite operations
  | .pixEE x y => Sys2Proof.Machine.execPixEE x y s
  | .pixEO x y => Sys2Proof.Machine.execPixEO x y s
  | .pixOE x y => Sys2Proof.Machine.execPixOE x y s
  | .pixOO x y => Sys2Proof.Machine.execPixOO x y s
  | .extract offset parity => Sys2Proof.Machine.execExtract offset parity s
  | .convert yc uc vc => Sys2Proof.Machine.execConvert yc uc vc s
  | .normalize v => Sys2Proof.Machine.execNormalize v s
  | .decodeFrame n => Sys2Proof.Machine.execDecodeFrame n s

end Sys2Proof.Machine
end

