-- ==== Sys2Proof/Machine/Step.lean ====
section
/-! DEFINITION. One step of the machine: the next event at the port, or the decoder's own move. The block "fetches no
instructions" (spec/10_state.md R21); what a step takes up is the operation at the head of the port (log 8). -/

namespace Sys2Proof.Machine

/-- One step. With nothing at the port the decoder moves (R106, R121); in IDLE, DONE and ERROR the block waits
(R147, R151). -/
def step (s : State) : Host.Outcome State Fault Refusal :=
  match s.port with
  | [] => decoderStep s
  | .op w :: rest =>
    match decode w with
    | .ok i => exec i { s with port := rest }
    | .error e => .refused (.undecodable e)
  | .operands l :: rest => .next { s with port := rest, lat := l }
  | .fill a bytes :: rest => hostFill a bytes { s with port := rest }
  | .reset :: rest => .next (applyReset { s with port := rest })
  | .wait :: rest => if s.status = .busy then decoderStep s else execCmdStatus { s with port := rest }
  | .turn :: rest => decoderStep { s with port := rest }

/-- The state with a table word at the head of the port, where the next step takes it up (log 9). -/
def State.withFetchWord (s : State) (nbits w : Nat) : State := { s with port := .op (tableOpWord nbits w) :: s.port }

end Sys2Proof.Machine
end

