-- ==== Sys2Proof/Safety.lean ====
section
/-! DEFINITION. The terms claims are stated in: the closed form of a decode (spec/42_raster_decoder.md R110,
spec/41_colorspace_conversion.md R88), what a host may present, which operation writes what, and the invariant of a
block driven by its host. -/

namespace Sys2Proof.Machine

/-! ## The closed form -/

/-- The clamp on integers of R88. -/
def clampInt (n lo hi : Int) : Int := if n < lo then lo else if hi < n then hi else n

/-- A channel of R88: an integer in [0, 255] in 8 bits. -/
def channelInt (n : Int) : Byte := BitVec.ofInt 8 (clampInt n 0 255)

/-- The integer form of CONVERT (R88), `//` being floor division. -/
def integerPixel (luma uc vc : Int) : Pixel :=
  { r := channelInt ((10000 * luma + 13983 * vc) / 10000)
    g := channelInt ((100000 * luma - 39465 * uc - 58060 * vc) / 100000)
    b := channelInt ((100000 * luma + 203211 * uc) / 100000) }

/-- `OFFSET(x, y) = (y % 2)*W*H + (y // 2)*2*W + (x // 2)*4` (R110, R36). -/
def closedOffset (w h x y : Nat) : Nat := y % 2 * w * h + y / 2 * 2 * w + x / 2 * 4

/-- The value stored at `(x, y)`: R110 with R88. -/
def closedPixel (s : State) (x y : Nat) : Pixel :=
  let off := closedOffset s.w s.h x y
  integerPixel (s.bufByte (off + 1 + 2 * (x % 2))).toNat ((s.bufByte off).toNat - 128) ((s.bufByte (off + 2)).toNat - 128)

/-- The dimensions are the hardwired ones (R13). -/
def State.Hardwired (s : State) : Prop := s.cfgW = 720#10 ∧ s.cfgH = 480#9

/-! ## The expansion of a PIX -/

/-- The operations a PIX expands to (R63), each given the state it meets. -/
def expansion (sel : BitVec 2) : List (State → Instr) :=
  [fun _ => if rpOf sel = 0#1 then .rdRowP0 (cpOf sel) else .rdRowP1 (cpOf sel),
   fun _ => if cpOf sel = 0#1 then .rdColE (rpOf sel) else .rdColO (rpOf sel),
   fun _ => .rdOffs sel, fun _ => .bxChk sel, fun _ => .bxFetch sel, fun s => .bxSplit s.lat.word,
   fun _ => if cpOf sel = 0#1 then .bxLselE (rpOf sel) else .bxLselO (rpOf sel),
   fun _ => .bxCenter sel, fun _ => .cscR sel, fun _ => .cscG sel, fun _ => .cscB sel, fun _ => .cscBias sel,
   fun _ => .cscClamp sel, fun _ => .cscTrunc sel, fun s => .rdStore s.lat.pr s.lat.pg s.lat.pb]

/-- Run operations one after another. -/
def runOperations : List (State → Instr) → State → Host.Outcome State Fault Refusal
  | [], s => .next s
  | f :: fs, s =>
    match exec (f s) s with
    | .next t => runOperations fs t
    | .fault e => .fault e
    | .refused r => .refused r

/-! ## Who may present and who writes what -/

/-- What a host may put at the port: "the host alone issues `CMD.START`, `CMD.STATUS`, `CMD.RDPIX` and writes `BUF`"
(R142), and reset (R150). -/
def Event.fromHost : Event → Bool
  | .op w => w.slot == .cmd
  | .operands _ => false
  | .fill _ _ => true
  | .reset => true
  | .wait => true
  | .turn => true

/-- The operations whose rule lists LEN among what they write (R120, R125). -/
def writesLen : Instr → Bool
  | .cmdStart _ | .decodeFrame _ => true
  | .rdNext | .rdRowP0 _ | .rdRowP1 _ | .rdColE _ | .rdColO _ | .rdOffs _ | .bxChk _ | .bxFetch _
  | .bxSplit _ | .bxLselE _ | .bxLselO _ | .bxCenter _ | .cscR _ | .cscG _ | .cscB _ | .cscBias _
  | .cscClamp _ | .cscTrunc _ | .rdStore _ _ _ | .cmdStatus | .cmdRdpix _ _ | .cmdReserved | .cmdDone
  | .pixEE _ _ | .pixEO _ _ | .pixOE _ _ | .pixOO _ _ | .extract _ _ | .convert _ _ _ | .normalize _ => false

/-- The operations whose rule lists RASTER among what they write (R105, R106, R107, R120, R125). -/
def writesRaster : Instr → Bool
  | .rdNext | .rdStore _ _ _ | .cmdStart _ | .pixEE _ _ | .pixEO _ _ | .pixOE _ _ | .pixOO _ _
  | .decodeFrame _ => true
  | .rdRowP0 _ | .rdRowP1 _ | .rdColE _ | .rdColO _ | .rdOffs _ | .bxChk _ | .bxFetch _ | .bxSplit _
  | .bxLselE _ | .bxLselO _ | .bxCenter _ | .cscR _ | .cscG _ | .cscB _ | .cscBias _ | .cscClamp _
  | .cscTrunc _ | .cmdStatus | .cmdRdpix _ _ | .cmdReserved | .cmdDone | .extract _ _ | .convert _ _ _
  | .normalize _ => false

/-- The operations that write `lat`: those whose rule lists a transient value among what they write, but RD.NEXT, whose
`x`, `y` and SEL (R106) end with its PIX (log 4). -/
def writesLat : Instr → Bool
  | .rdRowP0 _ | .rdRowP1 _ | .rdColE _ | .rdColO _ | .rdOffs _ | .bxFetch _ | .bxSplit _ | .bxLselE _
  | .bxLselO _ | .bxCenter _ | .cscR _ | .cscG _ | .cscB _ | .cscBias _ | .cscClamp _ | .cscTrunc _ => true
  | .rdNext | .bxChk _ | .rdStore _ _ _ | .cmdStatus | .cmdStart _ | .cmdRdpix _ _ | .cmdReserved
  | .cmdDone | .pixEE _ _ | .pixEO _ _ | .pixOE _ _ | .pixOO _ _ | .extract _ _ | .convert _ _ _
  | .normalize _ | .decodeFrame _ => false

/-- The operations that return a value. -/
def returns : Instr → Bool
  | .cmdStatus | .cmdRdpix _ _ | .extract _ _ | .convert _ _ _ | .normalize _ | .decodeFrame _ => true
  | .rdNext | .rdRowP0 _ | .rdRowP1 _ | .rdColE _ | .rdColO _ | .rdOffs _ | .bxChk _ | .bxFetch _
  | .bxSplit _ | .bxLselE _ | .bxLselO _ | .bxCenter _ | .cscR _ | .cscG _ | .cscB _ | .cscBias _
  | .cscClamp _ | .cscTrunc _ | .rdStore _ _ _ | .cmdStart _ | .cmdReserved | .cmdDone | .pixEE _ _
  | .pixEO _ _ | .pixOE _ _ | .pixOO _ _ => false

/-- The operations that can change STATUS, ERRCODE or PEND: CMD.START, CMD.DONE, RD.NEXT, and those that
contain BX.CHK (R14, R15, R18). -/
def writesControl : Instr → Bool
  | .rdNext | .bxChk _ | .cmdStart _ | .cmdDone | .pixEE _ _ | .pixEO _ _ | .pixOE _ _ | .pixOO _ _
  | .extract _ _ | .decodeFrame _ => true
  | .rdRowP0 _ | .rdRowP1 _ | .rdColE _ | .rdColO _ | .rdOffs _ | .bxFetch _ | .bxSplit _ | .bxLselE _
  | .bxLselO _ | .bxCenter _ | .cscR _ | .cscG _ | .cscB _ | .cscBias _ | .cscClamp _ | .cscTrunc _
  | .rdStore _ _ _ | .cmdStatus | .cmdRdpix _ _ | .cmdReserved | .convert _ _ _ | .normalize _ => false

/-! ## The invariant -/

/-- What holds of a block with the hardwired dimensions that only its host drives (R142). -/
structure State.Inv (s : State) : Prop where
  /-- R13. -/
  hardwired : s.Hardwired
  /-- The source memory is in its canonical form. -/
  bufWf : Memory.wf s.buf = true
  /-- The raster is in its canonical form. -/
  rasterWf : Raster.wf s.raster = true
  /-- R38: cell indexes are 0 to 345599. -/
  rasterIn : ∀ k p, assocRead s.raster k = some p → k < 345600
  /-- R21: "positions outside `[0, W) × [0, H)` are never generated". -/
  pendIn : ∀ p ∈ s.pend, p.x < 720 ∧ p.y < 480
  /-- R18: PEND is a set. -/
  pendNodup : s.pend.Nodup
  /-- PEND is empty outside a decode (R25, R121, R137). -/
  pendBusy : s.status ≠ .busy → s.pend = []
  /-- A decode in progress has passed the length test (R12). -/
  busyLen : s.status = .busy → s.len = 691200#32
  /-- During a decode a cell holds its final value exactly when its position has been processed (R39, R154). -/
  busyCells : s.status = .busy → ∀ x y, x < 720 → y < 480 →
    s.cell x y = if (⟨x, y⟩ : Pos) ∈ s.pend then none else some (closedPixel s x y)
  /-- At DONE every cell holds a value (R121). -/
  doneCells : s.status = .done → ∀ x y, x < 720 → y < 480 → ∃ p, s.cell x y = some p
  /-- "After `ErrLength` no cell has been written at all" (R138); after reset no cell holds a value (R25). -/
  otherCells : s.status = .idle ∨ s.status = .error → s.raster = []
  /-- "`ERRCODE` is NONE unless `ST = ERROR`" (R122). -/
  errStatus : s.errcode = .none ↔ s.status ≠ .error
  /-- ErrInternal cannot occur in a decode started by CMD.START (R133). -/
  noInternal : s.errcode ≠ .internal
  /-- Only the host's events stand at the port (R142). -/
  hostOnly : s.port.all Event.fromHost = true

end Sys2Proof.Machine
end

