-- ==== Sys2Proof/Certificates/Slice0/Obligations.lean ====
section
/-! DEFINITION. The statements for the provers, each one `def Obligations.<Name> : Prop`. A completion statement
concludes that `exec` answers a next state and says all of that state. "Log n" is notes/assumptions/n.md. -/

open Sys2Proof Sys2Proof.Machine

/-! ## Encoding -/

/-- Log 2 for the operand bytes. Decoding the encoding of a well-formed operation gives it back. -/
def Obligations.DecodeOfEncodeIsTheInstruction : Prop :=
  ∀ i : Instr, i.wellFormed = true → decode (encode i) = .ok i

/-- Only a well-formed operation is decoded, and from one word only; RD.NEXT ignores its SEL bits and the reserved
event code its operand bits. -/
def Obligations.DecodedWordIsWellFormedAndUnique : Prop :=
  ∀ (w : OpWord) (i : Instr), decode w = .ok i →
    i.wellFormed = true ∧ (i ≠ .rdNext → i ≠ .cmdReserved → encode i = w)

/-- Each SEL value selects one PIX variant and each event code one command ("the rows that partition the `SEL` space
are the four `PIX.*` rows", spec/30_encoding.md section 7), and every SEL value exactly one operation at each
stage that splits on a parity. -/
def Obligations.RowsPartitionTheirSelector : Prop :=
  ∀ slot ∈ [Slot.pix, .cmd, .row, .col, .lsel], ∀ v < 4,
    (opcodeRows.filter fun row => row.slot == slot && row.applies v).length = 1

/-- Words written out from the formats: the Sample Word 5A 51 F0 91 in memory order (R51), the cell (237, 30, 3)
(R56), event codes 00, 01, 10, 11 (R55), SEL 00 to 11 (R54). -/
def Obligations.WrittenOutWordsDecode : Prop :=
  decode ⟨.split, [0x5A#8, 0x51#8, 0xF0#8, 0x91#8]⟩ = .ok (.bxSplit 0x5A51F091#32) ∧
  decode ⟨.store, [237#8, 30#8, 3#8]⟩ = .ok (.rdStore 237#8 30#8 3#8) ∧
  decode ⟨.cmd, [0#8, 0#8, 0#8, 0#8, 0#8]⟩ = .ok .cmdStatus ∧
  decode ⟨.cmd, [1#8, 0x00#8, 0x8C#8, 0x0A#8, 0x00#8]⟩ = .ok (.cmdStart 691200#32) ∧
  decode ⟨.cmd, [2#8, 0xCF#8, 0x02#8, 0xDF#8, 0x01#8]⟩ = .ok (.cmdRdpix 719#10 479#9) ∧
  decode ⟨.cmd, [3#8, 0#8, 0#8, 0#8, 0#8]⟩ = .ok .cmdReserved ∧
  decode ⟨.row, [0b01#8]⟩ = .ok (.rdRowP0 1#1) ∧ decode ⟨.row, [0b10#8]⟩ = .ok (.rdRowP1 0#1) ∧
  decode ⟨.col, [0b10#8]⟩ = .ok (.rdColE 1#1) ∧ decode ⟨.col, [0b01#8]⟩ = .ok (.rdColO 0#1) ∧
  decode ⟨.lsel, [0b00#8]⟩ = .ok (.bxLselE 0#1) ∧ decode ⟨.lsel, [0b11#8]⟩ = .ok (.bxLselO 1#1) ∧
  decode ⟨.pix, [0b10#8, 0#8, 0#8, 1#8, 0#8]⟩ = .ok (.pixOE 0#10 1#9) ∧
  decode ⟨.done, []⟩ = .ok .cmdDone

/-! ## The step and the port (log 8) -/

/-- An operation at the head of the port is decoded and run, and leaves the port; a word that does not decode
is refused by name; the inputs presented for operations that run alone become the transient values. -/
def Obligations.StepRunsTheDecodedOperation : Prop :=
  ∀ (s : State) (rest : List Event),
    (∀ w : OpWord, s.port = .op w :: rest →
      (∀ i, decode w = .ok i → step s = exec i { s with port := rest }) ∧
      (∀ e, decode w = .error e → step s = .refused (.undecodable e))) ∧
    (∀ l : Latches, s.port = .operands l :: rest → step s = .next { s with port := rest, lat := l })

/-- With nothing at the port, or when told to move, the decoder takes its only enabled step: RD.NEXT while positions
are pending, CMD.DONE when none is; outside BUSY it does not run and all state is kept. -/
def Obligations.DecoderTakesItsEnabledStep : Prop :=
  ∀ (s : State) (rest : List Event),
    (s.port = [] →
      (s.status = .busy → s.pend ≠ [] → step s = exec .rdNext s) ∧
      (s.status = .busy → s.pend = [] → step s = exec .cmdDone s) ∧
      (s.status ≠ .busy → step s = .next s)) ∧
    (s.port = .turn :: rest →
      (s.status = .busy → s.pend ≠ [] → step s = exec .rdNext { s with port := rest }) ∧
      (s.status = .busy → s.pend = [] → step s = exec .cmdDone { s with port := rest }) ∧
      (s.status ≠ .busy → step s = .next { s with port := rest }))

/-- WAIT lets the decoder move until ST is not BUSY and then answers as CMD.STATUS does. -/
def Obligations.WaitEndsWithTheStatus : Prop :=
  ∀ (s : State) (rest : List Event), s.port = .wait :: rest →
    (s.status = .busy → s.pend ≠ [] → step s = exec .rdNext s) ∧
    (s.status = .busy → s.pend = [] → step s = exec .cmdDone s) ∧
    (s.status ≠ .busy → step s = .next { s with port := rest, reply := .status s.status s.errcode })

/-- A host write sets the bytes from its address on and no other byte, and nothing else of the state; while BUSY it
is refused (log 12), and outside the 32-bit source space it faults (log 14). -/
def Obligations.HostFillWritesItsBytes : Prop :=
  ∀ (s : State) (a : Nat) (bytes : List Byte) (rest : List Event), s.port = .fill a bytes :: rest →
    (s.status ≠ .busy → a + bytes.length ≤ 2 ^ 32 →
      ∃ t, step s = .next t ∧ t = { s with port := rest, buf := t.buf } ∧
        (∀ (i : Nat) (b : Byte), bytes[i]? = some b → t.bufByte (a + i) = b) ∧
        (∀ k, (k < a ∨ a + bytes.length ≤ k) → t.bufByte k = s.bufByte k)) ∧
    (s.status = .busy → step s = .refused .bufWriteWhileBusy) ∧
    (s.status ≠ .busy → 2 ^ 32 < a + bytes.length → step s = .fault .sourceOutOfRange)

/-- Reset in any state. -/
def Obligations.ResetFromAnyState : Prop :=
  ∀ (s : State) (rest : List Event), s.port = .reset :: rest →
    ∃ t, step s = .next t ∧ t.status = .idle ∧ t.errcode = .none ∧ t.len = 0#32 ∧ t.pend = [] ∧
      (∀ x y, t.cell x y = none) ∧ t.rasterValid = false ∧ t.buf = s.buf ∧ t.cfgW = s.cfgW ∧ t.cfgH = s.cfgH ∧
      t.port = rest

/-- The reset values R25 gives. -/
def Obligations.ResetStateHoldsTheResetValues : Prop :=
  State.reset.status = .idle ∧ State.reset.status.code = 0b00#2 ∧ State.reset.rasterValid = false ∧
  State.reset.errcode = .none ∧ State.reset.errcode.code = 0b00#2 ∧ State.reset.len = 0#32 ∧
  State.reset.pend = [] ∧ (∀ x y, State.reset.cell x y = none) ∧
  State.reset.cfgW = 720#10 ∧ State.reset.cfgH = 480#9

/-- The status codes of R14, the error codes of R15, and that no error has the reserved code. -/
def Obligations.StatusAndErrorCodes : Prop :=
  Status.code .idle = 0b00#2 ∧ Status.code .busy = 0b01#2 ∧ Status.code .done = 0b10#2 ∧ Status.code .error = 0b11#2 ∧
  ErrCode.code .none = 0b00#2 ∧ ErrCode.code .length = 0b01#2 ∧ ErrCode.code .internal = 0b10#2 ∧
  (∀ e : ErrCode, e.code ≠ 0b11#2) ∧ (∀ s : State, s.rasterValid = true ↔ s.status = .done)

/-! ## Raster Decoder -/

/-- R100, for an even row. -/
def Obligations.RowAddressOfAnEvenRow : Prop :=
  ∀ (cp : BitVec 1) (s : State), s.lat.y % 2 = 0 →
    exec (.rdRowP0 cp) s =
      .next { s with lat := { s.lat with rowIdx := s.lat.y / 2, base := s.lat.y / 2 * s.cfgW.toNat * 2 } }

/-- R101, for an odd row. -/
def Obligations.RowAddressOfAnOddRow : Prop :=
  ∀ (cp : BitVec 1) (s : State), s.lat.y % 2 = 1 →
    exec (.rdRowP1 cp) s =
      .next { s with lat := { s.lat with
        rowIdx := (s.lat.y - 1) / 2
        base := s.cfgW.toNat * s.cfgH.toNat + (s.lat.y - 1) / 2 * s.cfgW.toNat * 2 } }

/-- R102, for an even column. -/
def Obligations.WordOffsetOfAnEvenColumn : Prop :=
  ∀ (rp : BitVec 1) (s : State), s.lat.x % 2 = 0 →
    exec (.rdColE rp) s = .next { s with lat := { s.lat with pairOff := s.lat.x * 2, par := 0#1 } }

/-- R103, for an odd column. -/
def Obligations.WordOffsetOfAnOddColumn : Prop :=
  ∀ (rp : BitVec 1) (s : State), s.lat.x % 2 = 1 →
    exec (.rdColO rp) s = .next { s with lat := { s.lat with pairOff := (s.lat.x - 1) * 2, par := 1#1 } }

/-- Log 15: outside the operand range of R100 to R103, R73 and R74 (the other parity) the six operations still complete;
the value R101 and R103 leave without a meaning (at 0) is free. -/
def Obligations.ParityOperationsCompleteOutsideTheirRange : Prop :=
  ∀ (b : BitVec 1) (s : State),
    (s.lat.y % 2 = 1 → exec (.rdRowP0 b) s =
      .next { s with lat := { s.lat with rowIdx := s.lat.y / 2, base := s.lat.y / 2 * s.cfgW.toNat * 2 } }) ∧
    (s.lat.y % 2 = 0 → ∃ k, (s.lat.y ≠ 0 → k = (s.lat.y - 1) / 2) ∧ exec (.rdRowP1 b) s =
      .next { s with lat := { s.lat with
        rowIdx := k, base := s.cfgW.toNat * s.cfgH.toNat + k * s.cfgW.toNat * 2 } }) ∧
    (s.lat.x % 2 = 1 → exec (.rdColE b) s =
      .next { s with lat := { s.lat with pairOff := s.lat.x * 2, par := 0#1 } }) ∧
    (s.lat.x % 2 = 0 → ∃ k, (s.lat.x ≠ 0 → k = (s.lat.x - 1) * 2) ∧ exec (.rdColO b) s =
      .next { s with lat := { s.lat with pairOff := k, par := 1#1 } }) ∧
    (s.lat.par = 1#1 → exec (.bxLselE b) s = .next { s with lat := { s.lat with luma := s.lat.y1 } }) ∧
    (s.lat.par = 0#1 → exec (.bxLselO b) s = .next { s with lat := { s.lat with luma := s.lat.y2 } })

/-- R104. -/
def Obligations.OffsetIsBasePlusPairOffset : Prop :=
  ∀ (sel : BitVec 2) (s : State),
    exec (.rdOffs sel) s = .next { s with lat := { s.lat with offset := s.lat.base + s.lat.pairOff } }

/-- R105: the cell of the pixel's own coordinate takes the value, every other cell and all other state is
unchanged. -/
def Obligations.StoreWritesTheCellOfItsPosition : Prop :=
  ∀ (r g b : Byte) (s : State), s.lat.x < s.cfgW.toNat → s.lat.y < s.cfgH.toNat →
    ∃ t, exec (.rdStore r g b) s = .next t ∧ t = { s with raster := t.raster } ∧
      t.cell s.lat.x s.lat.y = some ⟨r, g, b⟩ ∧
      ∀ x y, (x, y) ≠ (s.lat.x, s.lat.y) → t.cell x y = s.cell x y

/-- R106: where RD.NEXT is enabled it runs, for one pending position, the PIX variant its SEL selects, and the position
leaves PEND. -/
def Obligations.NextRunsPixOnAPendingPosition : Prop :=
  ∀ s : State, s.status = .busy → s.pend ≠ [] →
    (∀ p ∈ s.pend, p.x < s.cfgW.toNat ∧ p.y < s.cfgH.toNat ∧
      closedOffset s.cfgW.toNat s.cfgH.toNat p.x p.y + 4 ≤ s.len.toNat) →
    ∃ (i : Nat) (p : Pos) (u : State), s.pend[i]? = some p ∧
      exec (pixVariant (selNumber p.x p.y) (BitVec.ofNat 10 p.x) (BitVec.ofNat 9 p.y))
        { s with choices := s.choices.tail } = .next u ∧
      u.pend = s.pend ∧ exec .rdNext s = .next { u with pend := s.pend.eraseIdx i }

/-- R106, the choice is free: whatever pending position is wanted, some value of the free choices makes RD.NEXT decode
it and take it out of PEND. -/
def Obligations.NextCanTakeAnyPendingPosition : Prop :=
  ∀ (s : State) (p : Pos), s.status = .busy → p ∈ s.pend →
    p.x < s.cfgW.toNat → p.y < s.cfgH.toNat →
    closedOffset s.cfgW.toNat s.cfgH.toNat p.x p.y + 4 ≤ s.len.toNat →
    ∃ (c : List Nat) (t : State), exec .rdNext { s with choices := c } = .next t ∧
      t.pend = s.pend.erase p ∧ t.status = .busy ∧ t.cell p.x p.y = some (closedPixel s p.x p.y) ∧
      ∀ x y, (x, y) ≠ (p.x, p.y) → t.cell x y = s.cell x y

/-- Log 5: with no free choice left RD.NEXT runs the PIX of the first pending position, which leaves PEND; and
CMD.START lists the positions in the row-major order R106 names for a simulator. -/
def Obligations.NextWithoutFreeChoicesIsRowMajor : Prop :=
  (∀ (s : State) (p : Pos) (ps : List Pos), s.status = .busy → s.choices = [] → s.pend = p :: ps →
    p.x < s.cfgW.toNat → p.y < s.cfgH.toNat →
    closedOffset s.cfgW.toNat s.cfgH.toNat p.x p.y + 4 ≤ s.len.toNat →
    ∃ u, exec (pixVariant (selNumber p.x p.y) (BitVec.ofNat 10 p.x) (BitVec.ofNat 9 p.y)) s = .next u ∧
      exec .rdNext s = .next { u with pend := ps }) ∧
  (∀ s : State, s.Hardwired → s.status ≠ .busy → ∃ t, exec (.cmdStart 691200#32) s = .next t ∧
    t.pend = allPositions 720 480 ∧ t.choices = s.choices) ∧
  (∀ w h x y : Nat, x < w → y < h → (allPositions w h)[y * w + x]? = some ⟨x, y⟩)

/-- The model's own choices (logs 13, 14, 16, 17): RD.NEXT and CMD.DONE where they are not enabled are refused, RD.STORE
outside the raster and BX.FETCH beyond LEN, run alone, fault, CSC.TRUNC completes on every value, and a BX.CHK that
fails outside a decode raises as in one. -/
def Obligations.OperationsRunAloneOutsideTheirRules : Prop :=
  ∀ s : State,
    (s.status ≠ .busy ∨ s.pend = [] → exec .rdNext s = .refused .notEnabled) ∧
    (s.status ≠ .busy ∨ s.pend ≠ [] → exec .cmdDone s = .refused .notEnabled) ∧
    (∀ r g b, ¬ (s.lat.x < s.cfgW.toNat ∧ s.lat.y < s.cfgH.toNat) →
      exec (.rdStore r g b) s = .fault .rasterOutOfRange) ∧
    (∀ sel, s.len.toNat < s.lat.offset + 4 → exec (.bxFetch sel) s = .fault .sourceOutOfRange) ∧
    (∀ sel, ∃ r g b, exec (.cscTrunc sel) s = .next { s with lat := { s.lat with pr := r, pg := g, pb := b } }) ∧
    (∀ sel, s.status = .idle ∨ s.status = .done → s.len.toNat < s.lat.offset + 4 →
      exec (.bxChk sel) s = .next { s with status := .error, errcode := .internal, pend := [] })

/-! ## Byte Extractor -/

/-- R70 and R137: BX.CHK passes where `OFFSET + 4 <= LEN` and writes nothing; else, in a decode, it raises
ErrInternal. In ERROR it is not enabled (R140). -/
def Obligations.BoundsTestPassesOrRaises : Prop :=
  ∀ (sel : BitVec 2) (s : State),
    (s.status ≠ .error → s.lat.offset + 4 ≤ s.len.toNat → exec (.bxChk sel) s = .next s) ∧
    (s.status = .busy → s.len.toNat < s.lat.offset + 4 →
      exec (.bxChk sel) s = .next { s with status := .error, errcode := .internal, pend := [] })

/-- R71, R32: the four bytes at OFFSET, the lowest address the most significant. -/
def Obligations.FetchReadsTheWordBigEndian : Prop :=
  ∀ (sel : BitVec 2) (s : State), s.lat.offset + 4 ≤ s.len.toNat →
    ∃ w : SampleWord, exec (.bxFetch sel) s = .next { s with lat := { s.lat with word := w } } ∧
      w.toNat = (s.bufByte s.lat.offset).toNat * 2 ^ 24 + (s.bufByte (s.lat.offset + 1)).toNat * 2 ^ 16 +
        (s.bufByte (s.lat.offset + 2)).toNat * 2 ^ 8 + (s.bufByte (s.lat.offset + 3)).toNat

/-- R72, R51: bits 31:24 are U, 23:16 Y1, 15:8 V, 7:0 Y2. -/
def Obligations.SplitTakesTheFourSamples : Prop :=
  ∀ (word : SampleWord) (s : State),
    exec (.bxSplit word) s = .next { s with lat := { s.lat with
      u := word.extractLsb' 24 8, y1 := word.extractLsb' 16 8, v := word.extractLsb' 8 8,
      y2 := word.extractLsb' 0 8 } }

/-- R73, for PAR = 0, and R74, for PAR = 1. -/
def Obligations.LumaIsSelectedByParity : Prop :=
  ∀ (rp : BitVec 1) (s : State),
    (s.lat.par = 0#1 → exec (.bxLselE rp) s = .next { s with lat := { s.lat with luma := s.lat.y1 } }) ∧
    (s.lat.par = 1#1 → exec (.bxLselO rp) s = .next { s with lat := { s.lat with luma := s.lat.y2 } })

/-- R75. -/
def Obligations.CenteringSubtracts128 : Prop :=
  ∀ (sel : BitVec 2) (s : State),
    exec (.bxCenter sel) s = .next { s with lat := { s.lat with
      yc := (s.lat.luma.toNat : Int) - 128, uc := (s.lat.u.toNat : Int) - 128, vc := (s.lat.v.toNat : Int) - 128 } }

/-- R77: EXTRACT at any offset in bounds, aligned or not, returns the centred samples of the word there and writes no
state; out of bounds it raises ErrInternal (log 17). In ERROR it is not enabled (R140). -/
def Obligations.ExtractReturnsTheCentredSamples : Prop :=
  ∀ (offset : BitVec 32) (parity : BitVec 1) (s : State), s.status ≠ .error →
    (offset.toNat + 4 ≤ s.len.toNat →
      exec (.extract offset parity) s = .next { s with
        reply := .yuv ((s.bufByte (offset.toNat + 1 + 2 * parity.toNat)).toNat - 128)
          ((s.bufByte offset.toNat).toNat - 128) ((s.bufByte (offset.toNat + 2)).toNat - 128) }) ∧
    (s.len.toNat < offset.toNat + 4 →
      exec (.extract offset parity) s = .next { s with
        status := .error, errcode := .internal, pend := [], reply := .error .internal })

/-- R59: NORMALIZE returns `v - 128`, a bijection of [0, 255] onto [-128, 127]. -/
def Obligations.NormalizeIsABijection : Prop :=
  (∀ (v : Byte) (s : State), exec (.normalize v) s = .next { s with reply := .sample ((v.toNat : Int) - 128) }) ∧
  (∀ (s : State) (n : Int), -128 ≤ n → n ≤ 127 →
    ∃ v : Byte, exec (.normalize v) s = .next { s with reply := .sample n } ∧
      ∀ v' : Byte, exec (.normalize v') s = .next { s with reply := .sample n } → v' = v)

/-! ## Colourspace conversion -/

/-- R81. -/
def Obligations.RedCombination : Prop :=
  ∀ (sel : BitVec 2) (s : State),
    exec (.cscR sel) s = .next { s with lat := { s.lat with r := (s.lat.yc : Rat) + 13983 / 10000 * s.lat.vc } }

/-- R82. -/
def Obligations.GreenCombination : Prop :=
  ∀ (sel : BitVec 2) (s : State),
    exec (.cscG sel) s = .next { s with lat := { s.lat with
      g := (s.lat.yc : Rat) - 39465 / 100000 * s.lat.uc - 5806 / 10000 * s.lat.vc } }

/-- R83. -/
def Obligations.BlueCombination : Prop :=
  ∀ (sel : BitVec 2) (s : State),
    exec (.cscB sel) s = .next { s with lat := { s.lat with b := (s.lat.yc : Rat) + 203211 / 100000 * s.lat.uc } }

/-- R84. -/
def Obligations.BiasAdds128 : Prop :=
  ∀ (sel : BitVec 2) (s : State),
    exec (.cscBias sel) s = .next { s with lat := { s.lat with
      rs := s.lat.r + 128, gs := s.lat.g + 128, bs := s.lat.b + 128 } }

/-- R85. -/
def Obligations.ClampSaturatesEachChannel : Prop :=
  ∀ (sel : BitVec 2) (s : State),
    ∃ rk gk bk : Rat, exec (.cscClamp sel) s = .next { s with lat := { s.lat with rk := rk, gk := gk, bk := bk } } ∧
      ∀ q k, (q, k) ∈ [(s.lat.rs, rk), (s.lat.gs, gk), (s.lat.bs, bk)] →
        (q < 0 → k = 0) ∧ (255 < q → k = 255) ∧ (0 ≤ q → q ≤ 255 → k = q)

/-- R86: each channel is the integer part of its value in [0, 255]. -/
def Obligations.TruncationTakesTheIntegerPart : Prop :=
  ∀ (sel : BitVec 2) (s : State), (∀ q ∈ [s.lat.rk, s.lat.gk, s.lat.bk], 0 ≤ q ∧ q ≤ 255) →
    ∃ r g b : Byte, exec (.cscTrunc sel) s = .next { s with lat := { s.lat with pr := r, pg := g, pb := b } } ∧
      ∀ (q : Rat) (c : Byte), (q, c) ∈ [(s.lat.rk, r), (s.lat.gk, g), (s.lat.bk, b)] →
        (c.toNat : Rat) ≤ q ∧ q < c.toNat + 1

/-- R88: CONVERT, computed on exact rationals, equals the integer form with floor division, for every centred sample;
the numerators lie in the ranges R88 gives. -/
def Obligations.ConvertEqualsTheIntegerForm : Prop :=
  ∀ (yc uc vc : BitVec 8) (s : State),
    let luma := yc.toInt + 128
    let red := 10000 * luma + 13983 * vc.toInt
    let green := 100000 * luma - 39465 * uc.toInt - 58060 * vc.toInt
    let blue := 100000 * luma + 203211 * uc.toInt
    exec (.convert yc uc vc) s = .next { s with
      reply := .pixel ⟨channelInt (red / 10000), channelInt (green / 100000), channelInt (blue / 100000)⟩ } ∧
    0 ≤ luma ∧ luma ≤ 255 ∧ -1789824 ≤ red ∧ red ≤ 4325841 ∧ -12385675 ≤ green ∧ green ≤ 37983200 ∧
    -26011008 ≤ blue ∧ blue ≤ 51307797

/-- R89: where both chroma samples are 0, every channel is the luma; the law does not extend to raw chroma bytes of 0,
which centre to -128. -/
def Obligations.GreySampleConvertsToItsLuma : Prop :=
  ∀ (yc : BitVec 8) (s : State),
    (∃ c : Byte, (c.toNat : Int) = yc.toInt + 128 ∧
      exec (.convert yc 0#8 0#8) s = .next { s with reply := .pixel ⟨c, c, c⟩ }) ∧
    exec (.convert (-128#8) (-128#8) (-128#8)) s = .next { s with reply := .pixel ⟨0#8, 124#8, 0#8⟩ }

/-- R87: truncating before the clamp gives the same channels as clamping before the truncation. -/
def Obligations.TruncatingFirstGivesTheSamePixel : Prop :=
  ∀ (yc uc vc : BitVec 8) (s : State),
    exec (.convert yc uc vc) s = .next { s with
      reply := .pixel ⟨channelInt (truncRat ((yc.toInt : Rat) + 13983 / 10000 * vc.toInt + 128)),
       channelInt (truncRat ((yc.toInt : Rat) - 39465 / 100000 * uc.toInt - 5806 / 10000 * vc.toInt + 128)),
       channelInt (truncRat ((yc.toInt : Rat) + 203211 / 100000 * uc.toInt + 128))⟩ }

/-- R90 (e): every channel is non-decreasing in the luma, R in `vc`, B in `uc`, and G is non-increasing in both. -/
def Obligations.ConversionIsMonotone : Prop :=
  ∀ (s t t' : State) (yc yc' uc uc' vc vc' : BitVec 8) (p p' : Pixel),
    exec (.convert yc uc vc) s = .next t → t.reply = .pixel p →
    exec (.convert yc' uc' vc') s = .next t' → t'.reply = .pixel p' →
    yc.toInt ≤ yc'.toInt →
      (vc.toInt ≤ vc'.toInt → p.r.toNat ≤ p'.r.toNat) ∧
      (uc'.toInt ≤ uc.toInt → vc'.toInt ≤ vc.toInt → p.g.toNat ≤ p'.g.toNat) ∧
      (uc.toInt ≤ uc'.toInt → p.b.toNat ≤ p'.b.toNat)

/-! ## One pixel -/

/-- R107, R110: the PIX of a position stores the closed-form pixel of its word in its own cell; no other cell and no
other state changes. In ERROR a PIX is not enabled (R140). -/
def Obligations.PixStoresTheClosedFormPixel : Prop :=
  ∀ (s : State) (x : BitVec 10) (y : BitVec 9), s.status ≠ .error →
    x.toNat < s.cfgW.toNat → y.toNat < s.cfgH.toNat →
    closedOffset s.cfgW.toNat s.cfgH.toNat x.toNat y.toNat + 4 ≤ s.len.toNat →
    ∃ t, exec (pixVariant (selNumber x.toNat y.toNat) x y) s = .next t ∧ t = { s with raster := t.raster } ∧
      t.cell x.toNat y.toNat = some (closedPixel s x.toNat y.toNat) ∧
      ∀ x' y', (x', y') ≠ (x.toNat, y.toNat) → t.cell x' y' = s.cell x' y'

/-- R137 in a PIX: where BX.CHK fails the decode ends in ERROR with ERR_INTERNAL, nothing is pending and no cell
is written, whether the PIX runs alone (outside a decode: log 17) or from a RD.NEXT that draws its position, whatever
else is pending. -/
def Obligations.PixOutOfBoundsRaisesErrInternal : Prop :=
  ∀ (s : State) (x : BitVec 10) (y : BitVec 9), s.status ≠ .error →
    s.len.toNat < closedOffset s.cfgW.toNat s.cfgH.toNat x.toNat y.toNat + 4 →
    exec (pixVariant (selNumber x.toNat y.toNat) x y) s =
      .next { s with status := .error, errcode := .internal, pend := [] } ∧
    (s.status = .busy → s.pend[s.choiceIndex]? = some ⟨x.toNat, y.toNat⟩ → exec .rdNext s =
      .next { s with status := .error, errcode := .internal, pend := [], choices := s.choices.tail })

/-- R63, R107: running the fifteen operations a PIX expands to, one by one from its position, writes what the
PIX writes; they leave their transient values behind, the PIX does not (log 4). -/
def Obligations.PixEqualsItsFifteenOperations : Prop :=
  ∀ (s : State) (x : BitVec 10) (y : BitVec 9), s.status ≠ .error →
    x.toNat < s.cfgW.toNat → y.toNat < s.cfgH.toNat →
    closedOffset s.cfgW.toNat s.cfgH.toNat x.toNat y.toNat + 4 ≤ s.len.toNat →
    ∃ t, runOperations (expansion (BitVec.ofNat 2 (selNumber x.toNat y.toNat)))
        { s with lat := { s.lat with x := x.toNat, y := y.toNat } } = .next t ∧
      exec (pixVariant (selNumber x.toNat y.toNat) x y) s = .next { t with lat := s.lat }

/-- R109: any two PIX operations of different pixels commute. -/
def Obligations.PixOperationsOfDifferentPixelsCommute : Prop :=
  ∀ (s : State) (x x' : BitVec 10) (y y' : BitVec 9), (x, y) ≠ (x', y') → s.status ≠ .error →
    Raster.wf s.raster = true →
    x.toNat < s.cfgW.toNat → y.toNat < s.cfgH.toNat → x'.toNat < s.cfgW.toNat → y'.toNat < s.cfgH.toNat →
    closedOffset s.cfgW.toNat s.cfgH.toNat x.toNat y.toNat + 4 ≤ s.len.toNat →
    closedOffset s.cfgW.toNat s.cfgH.toNat x'.toNat y'.toNat + 4 ≤ s.len.toNat →
    ∃ a b t, exec (pixVariant (selNumber x.toNat y.toNat) x y) s = .next a ∧
      exec (pixVariant (selNumber x'.toNat y'.toNat) x' y') a = .next t ∧
      exec (pixVariant (selNumber x'.toNat y'.toNat) x' y') s = .next b ∧
      exec (pixVariant (selNumber x.toNat y.toNat) x y) b = .next t

/-- R37 and R33: with the hardwired dimensions, the OFFSET the row, column and offset operations compute for a position
is a multiple of 4 in the plane of its row. -/
def Obligations.OffsetsLieInThePlaneOfTheirRow : Prop :=
  ∀ (s : State) (x y : Nat), s.Hardwired → x < 720 → y < 480 → ∃ t,
    runOperations ((expansion (BitVec.ofNat 2 (selNumber x y))).take 3) { s with lat := { s.lat with x := x, y := y } }
      = .next t ∧
    t.lat.offset % 4 = 0 ∧ t.lat.offset ≤ 691196 ∧
    (y % 2 = 0 → t.lat.offset ≤ 345596) ∧ (y % 2 = 1 → 345600 ≤ t.lat.offset) ∧
    t.lat.offset = 345600 * (y % 2) + 1440 * (y / 2) + 4 * (x / 2) ∧ t.lat.par.toNat = x % 2

/-- R108: every position has one pair of word address and parity, and the map is a bijection onto the multiples of 4 up
to 691196 and the two parities, with the inverse R108 gives. -/
def Obligations.IndexFunctionIsABijection : Prop :=
  (∀ x y, x < 720 → y < 480 → closedOffset 720 480 x y % 4 = 0 ∧ closedOffset 720 480 x y ≤ 691196) ∧
  ∀ off par : Nat, off % 4 = 0 → off ≤ 691196 → par < 2 →
    let p := if 345600 ≤ off then 1 else 0
    let x := 2 * ((off - p * 345600) % 1440 / 4) + par
    let y := 2 * ((off - p * 345600) / 1440) + p
    x < 720 ∧ y < 480 ∧ closedOffset 720 480 x y = off ∧ x % 2 = par ∧
      ∀ x' y', x' < 720 → y' < 480 → closedOffset 720 480 x' y' = off → x' % 2 = par → x' = x ∧ y' = y

/-- R76: the two pixels of a pair are converted with the same chroma, from the same word, each with its own luma. -/
def Obligations.PixelsOfAPairShareTheirChroma : Prop :=
  ∀ (s : State) (x x' : BitVec 10) (y : BitVec 9), s.status ≠ .error → x.toNat % 2 = 0 → x'.toNat = x.toNat + 1 →
    x'.toNat < s.cfgW.toNat → y.toNat < s.cfgH.toNat →
    closedOffset s.cfgW.toNat s.cfgH.toNat x.toNat y.toNat + 4 ≤ s.len.toNat →
    ∃ (off : Nat) (t t' : State), off = closedOffset s.cfgW.toNat s.cfgH.toNat x.toNat y.toNat ∧
      exec (pixVariant (selNumber x.toNat y.toNat) x y) s = .next t ∧
      exec (pixVariant (selNumber x'.toNat y.toNat) x' y) s = .next t' ∧
      t.cell x.toNat y.toNat = some (integerPixel (s.bufByte (off + 1)).toNat ((s.bufByte off).toNat - 128)
        ((s.bufByte (off + 2)).toNat - 128)) ∧
      t'.cell x'.toNat y.toNat = some (integerPixel (s.bufByte (off + 3)).toNat ((s.bufByte off).toNat - 128)
        ((s.bufByte (off + 2)).toNat - 128))

/-- R38, R56: the byte view of the raster and the cell word. -/
def Obligations.RasterByteViewHoldsTheChannels : Prop :=
  ∀ (s : State) (x y : Nat) (p : Pixel), x < s.cfgW.toNat → y < s.cfgH.toNat → s.cell x y = some p →
    s.rasterByte (3 * (y * s.cfgW.toNat + x)) = some p.r ∧
    s.rasterByte (3 * (y * s.cfgW.toNat + x) + 1) = some p.g ∧
    s.rasterByte (3 * (y * s.cfgW.toNat + x) + 2) = some p.b ∧
    (pixelWord p).extractLsb' 16 8 = p.r ∧ (pixelWord p).extractLsb' 8 8 = p.g ∧ (pixelWord p).extractLsb' 0 8 = p.b

/-! ## Host commands -/

/-- R120, R131: CMD.START where ST is not BUSY. The right length empties the raster, makes every position pending and
begins a decode; every other length raises ErrLength and leaves no cell with a value. -/
def Obligations.StartChecksTheLength : Prop :=
  ∀ s : State, s.Hardwired → s.status ≠ .busy →
    (∃ t, exec (.cmdStart 691200#32) s = .next t ∧
      t = { s with len := 691200#32, errcode := .none, raster := [], pend := t.pend, status := .busy } ∧
      (∀ x y, t.cell x y = none) ∧ t.pend.Nodup ∧ t.pend.length = 345600 ∧
      ∀ p : Pos, p ∈ t.pend ↔ p.x < 720 ∧ p.y < 480) ∧
    ∀ len : BitVec 32, len ≠ 691200#32 → ∃ t, exec (.cmdStart len) s = .next t ∧
      t = { s with len := len, errcode := .length, raster := [], pend := [], status := .error } ∧
      ∀ x y, t.cell x y = none

/-- R24: nothing of an earlier decode reaches the next: CMD.START ends in the same state from any two states that differ
only in LEN, STATUS, ERRCODE, RASTER and PEND. -/
def Obligations.StartForgetsTheEarlierDecode : Prop :=
  ∀ (len : BitVec 32) (s s' : State), s.status ≠ .busy → s'.status ≠ .busy →
    s' = { s with len := s'.len, status := s'.status, errcode := s'.errcode, raster := s'.raster, pend := s'.pend } →
    exec (.cmdStart len) s = exec (.cmdStart len) s'

/-- R127 (log 11): CMD.START while BUSY, and DECODE, which begins with one, are refused, so that the running decode is
neither restarted nor aborted; and the reserved event code of R61. -/
def Obligations.StartWhileBusyAndTheReservedCodeAreRefused : Prop :=
  ∀ s : State, (∀ len, s.status = .busy → exec (.cmdStart len) s = .refused .startWhileBusy) ∧
    (∀ n, s.status = .busy → exec (.decodeFrame n) s = .refused .startWhileBusy) ∧
    exec .cmdReserved s = .refused .reservedEvent

/-- R121: where ST is BUSY and nothing is pending, ST becomes DONE, the raster valid, and nothing else changes. -/
def Obligations.DoneEndsTheDecodeWhenNothingIsPending : Prop :=
  ∀ s : State, s.status = .busy → s.pend = [] →
    ∃ t, exec .cmdDone s = .next t ∧ t = { s with status := .done } ∧ t.rasterValid = true

/-- R122: in every state; nothing but the answer changes. -/
def Obligations.StatusReturnsStateAndError : Prop :=
  ∀ s : State, exec .cmdStatus s = .next { s with reply := .status s.status s.errcode }

/-- R123: at DONE the cell; in another state some value, the free draw (log 6); out of range refused. -/
def Obligations.ReadPixelReturnsTheCellAtDone : Prop :=
  ∀ (s : State) (x : BitVec 10) (y : BitVec 9),
    (x.toNat < s.cfgW.toNat → y.toNat < s.cfgH.toNat →
      (∀ p, s.status = .done → s.cell x.toNat y.toNat = some p →
        exec (.cmdRdpix x y) s = .next { s with reply := .pixel p }) ∧
      (s.status ≠ .done ∨ s.cell x.toNat y.toNat = none →
        ∃ p, exec (.cmdRdpix x y) s = .next { s with reply := .pixel p, draws := s.draws + 1 })) ∧
    (¬ (x.toNat < s.cfgW.toNat ∧ y.toNat < s.cfgH.toNat) → exec (.cmdRdpix x y) s = .refused .rdpixOutOfRange)

/-- R125: DECODE of 691200 bytes ends at DONE with the closed-form raster, for every pixel order, and returns it
row-major; DECODE of another length returns Error(ERR_LENGTH). It acts on BUF as it stands (log 19). -/
def Obligations.DecodeReturnsTheClosedFormRaster : Prop :=
  ∀ (n : BitVec 32) (s : State), s.Hardwired → s.status ≠ .busy →
    (n = 691200#32 → ∃ t, exec (.decodeFrame n) s = .next t ∧
      t.reply = .raster ((allPositions 720 480).map fun p => closedPixel s p.x p.y) ∧
      t.status = .done ∧ t.errcode = .none ∧ t.len = n ∧ t.pend = [] ∧ t.buf = s.buf ∧
      ∀ x y, x < 720 → y < 480 → t.cell x y = some (closedPixel s x y)) ∧
    (n ≠ 691200#32 → exec (.decodeFrame n) s = .next { s with
      len := n, errcode := .length, raster := [], pend := [], status := .error, reply := .error .length })

/-! ## The whole machine -/

/-- Frame of every operation: BUF is never written (R11), CFG_W and CFG_H never (R13), the port only by the step;
LEN, RASTER, the transient values, the reply and the control state only by the operations whose rules list them, with
one difference: R106 lists `x`, `y` and SEL among what RD.NEXT writes, and in the model they end with its PIX (R19,
log 4), so that RD.NEXT leaves `lat` alone. -/
def Obligations.EveryOperationWritesOnlyItsOwnState : Prop :=
  ∀ (i : Instr) (s t : State), exec i s = .next t →
    t.buf = s.buf ∧ t.cfgW = s.cfgW ∧ t.cfgH = s.cfgH ∧ t.port = s.port ∧
    (writesLen i = false → t.len = s.len) ∧ (writesRaster i = false → t.raster = s.raster) ∧
    (writesLat i = false → t.lat = s.lat) ∧ (returns i = false → t.reply = s.reply) ∧
    (writesControl i = false → t.status = s.status ∧ t.errcode = s.errcode ∧ t.pend = s.pend)

/-- The invariant holds at reset. -/
def Obligations.ResetMeetsTheInvariant : Prop := State.Inv State.reset

/-- Every step keeps the invariant: for every state that meets it, whatever its host has at the port and whatever the
free choices are. In it: no raise of ErrInternal (R133), no partial raster at DONE (R121, R138), every cell of a
running decode final or empty (R39). -/
def Obligations.EveryStepKeepsTheInvariant : Prop :=
  ∀ s t : State, s.Inv → step s = .next t → t.Inv

/-- R139: the ERROR state is left only by CMD.START or by reset, whatever the host does. -/
def Obligations.ErrorIsLeftOnlyByStartOrReset : Prop :=
  ∀ s t : State, s.port.all Event.fromHost = true → s.status = .error → step s = .next t → t.status ≠ .error →
    (∃ rest, s.port = .reset :: rest) ∨
    (∃ w rest len, s.port = .op w :: rest ∧ decode w = .ok (.cmdStart len))

/-- R158, R121: from every state a successful CMD.START leaves, for every choice of the order: after each of the first
345600 steps one position fewer is pending, and the next step reaches DONE, every cell holding its closed-form pixel.
The premises are what StartChecksTheLength concludes of that state. -/
def Obligations.DecodeEndsAfterOneStepPerPixelAndDone : Prop :=
  ∀ s : State, s.Hardwired → s.status = .busy → s.len = 691200#32 → s.port = [] → s.raster = [] →
    s.pend.Nodup → (∀ p : Pos, p ∈ s.pend ↔ p.x < 720 ∧ p.y < 480) →
    (∀ k ≤ 345600, ∃ u : State, Host.Core.run Sys2Proof.core k s = .next u ∧ u.status = .busy ∧
      u.pend.length = 345600 - k) ∧
    ∃ t : State, Host.Core.run Sys2Proof.core 345601 s = .next t ∧ t.status = .done ∧ t.pend = [] ∧ t.errcode = s.errcode ∧
      ∀ x y, x < 720 → y < 480 → t.cell x y = some (closedPixel s x y)

/-- R140: in ERROR no operation but CMD.START, and DECODE, which begins with one, changes ST or ERRCODE; the operations
that can raise ErrInternal are not enabled there, which the model answers with a refusal (logs 13, 29); and the
ErrLength of a CMD.START re-enters ERROR with a fresh LEN. -/
def Obligations.ErrorsDoNotNest : Prop :=
  ∀ s : State, s.status = .error →
    (∀ (i : Instr) (t : State), (∀ n, i ≠ .cmdStart n ∧ i ≠ .decodeFrame n) → exec i s = .next t →
      t.status = .error ∧ t.errcode = s.errcode) ∧
    (∀ sel, exec (.bxChk sel) s = .refused .notEnabled) ∧
    (∀ offset parity, exec (.extract offset parity) s = .refused .notEnabled) ∧
    (∀ sel x y, exec (pixVariant sel x y) s = .refused .notEnabled) ∧
    exec .rdNext s = .refused .notEnabled ∧
    (s.Hardwired → ∀ len : BitVec 32, len ≠ 691200#32 → exec (.cmdStart len) s =
      .next { s with len := len, errcode := .length, raster := [], pend := [] })
end

