-- ==== Sys2Proof/Laws/Memory.lean ====
section
/-! SUPPORT. The laws of the two memories: a read after a write gives the value written, a write leaves every
other key alone, and every operation keeps the canonical form. -/

namespace Sys2Proof.Machine

variable {α : Type}

theorem assocRead_write (m : List (Nat × α)) (a b : Nat) (x : α) :
    assocRead (assocWrite m a x) b = if b = a then some x else assocRead m b := by
  induction m with
  | nil => simp [assocWrite, assocRead]
  | cons e rest ih =>
    obtain ⟨k, v⟩ := e
    simp only [assocWrite]
    split
    · simp [assocRead]
    · split
      · subst_vars; simp only [assocRead]; split <;> simp_all
      · rename_i hlt hne
        simp only [assocRead, ih]
        by_cases hbk : b = k
        · have : k ≠ a := fun h => hne h.symm
          simp [hbk, this]
        · simp [hbk]

@[simp] theorem assocRead_write_same (m : List (Nat × α)) (a : Nat) (x : α) :
    assocRead (assocWrite m a x) a = some x := by simp [assocRead_write]

theorem assocRead_write_other (m : List (Nat × α)) {a b : Nat} (h : b ≠ a) (x : α) :
    assocRead (assocWrite m a x) b = assocRead m b := by simp [assocRead_write, h]

/-- What consecutive writes leave at each key. -/
theorem assocRead_writeList (xs : List α) : ∀ (m : List (Nat × α)) (a b : Nat),
    assocRead (assocWriteList m a xs) b = if a ≤ b then (xs[b - a]?).or (assocRead m b) else assocRead m b := by
  induction xs with
  | nil => intro m a b; simp [assocWriteList]
  | cons x xs ih =>
    intro m a b
    rw [assocWriteList, ih, assocRead_write]
    by_cases h1 : a + 1 ≤ b
    · have h2 : a ≤ b := by omega
      have h3 : b ≠ a := by omega
      obtain ⟨d, hd⟩ : ∃ d, b - a = d + 1 := ⟨b - a - 1, by omega⟩
      have : b - (a + 1) = d := by omega
      simp [h1, h2, h3, hd, this]
    · by_cases h2 : a = b
      · subst h2; simp
      · have h3 : ¬ a ≤ b := by omega
        have h4 : b ≠ a := fun h => h2 h.symm
        simp [h1, h3, h4]

/-- Every key of a memory in canonical form is above the first. -/
theorem keysRising_cons (k : Nat) (v : α) (rest : List (Nat × α)) :
    keysRising ((k, v) :: rest) = true ↔ keysRising rest = true ∧ ∀ e ∈ rest.head?, k < e.1 := by
  cases rest with
  | nil => simp [keysRising]
  | cons e rest => obtain ⟨k', v'⟩ := e; simp [keysRising, and_comm]

theorem keysRising_write (m : List (Nat × α)) (a : Nat) (x : α) (h : keysRising m = true) :
    keysRising (assocWrite m a x) = true := by
  induction m with
  | nil => simp [assocWrite, keysRising]
  | cons e rest ih =>
    obtain ⟨k, v⟩ := e
    obtain ⟨hr, hk⟩ := (keysRising_cons k v rest).1 h
    simp only [assocWrite]
    split
    · rename_i hlt; exact (keysRising_cons ..).2 ⟨h, by simpa using hlt⟩
    · split
      · rename_i _ heq; subst heq; exact (keysRising_cons ..).2 ⟨hr, hk⟩
      · rename_i hlt hne
        refine (keysRising_cons ..).2 ⟨ih hr, ?_⟩
        cases rest with
        | nil => simp [assocWrite]; omega
        | cons e' rest =>
          obtain ⟨k', v'⟩ := e'
          have hkk : k < k' := by simpa using hk
          simp only [assocWrite]
          split
          · simp; omega
          · split
            · simp; omega
            · simpa using hkk

theorem keysRising_writeList (xs : List α) : ∀ (m : List (Nat × α)) (a : Nat), keysRising m = true →
    keysRising (assocWriteList m a xs) = true := by
  induction xs with
  | nil => intro m a h; exact h
  | cons x xs ih => intro m a h; exact ih _ _ (keysRising_write m a x h)

/-- In a memory in canonical form nothing is read below the first key. -/
theorem assocRead_below {m : List (Nat × α)} (h : keysRising m = true) {b : Nat}
    (hb : ∀ e ∈ m.head?, b < e.1) : assocRead m b = none := by
  induction m with
  | nil => rfl
  | cons e rest ih =>
    obtain ⟨k, v⟩ := e
    obtain ⟨hr, hk⟩ := (keysRising_cons k v rest).1 h
    have hbk : b < k := by simpa using hb
    have : b ≠ k := by omega
    simp only [assocRead, this, if_false]
    exact ih hr fun e he => lt_trans hbk (hk e he)

/-- Memories in canonical form that read the same at every key are equal data. -/
theorem assoc_ext {m m' : List (Nat × α)} (h : keysRising m = true) (h' : keysRising m' = true)
    (heq : ∀ a, assocRead m a = assocRead m' a) : m = m' := by
  induction m generalizing m' with
  | nil =>
    cases m' with
    | nil => rfl
    | cons e rest => obtain ⟨k, v⟩ := e; have := heq k; simp [assocRead] at this
  | cons e rest ih =>
    obtain ⟨k, v⟩ := e
    obtain ⟨hr, hk⟩ := (keysRising_cons k v rest).1 h
    cases m' with
    | nil => have := heq k; simp [assocRead] at this
    | cons e' rest' =>
      obtain ⟨k', v'⟩ := e'
      obtain ⟨hr', hk'⟩ := (keysRising_cons k' v' rest').1 h'
      have hkk : k = k' := by
        rcases Nat.lt_trichotomy k k' with hlt | heq' | hgt
        · have h1 := heq k
          rw [assocRead_below (b := k) h' (by simpa using hlt)] at h1
          simp [assocRead] at h1
        · exact heq'
        · have h1 := heq k'
          rw [assocRead_below (b := k') h (by simpa using hgt)] at h1
          simp [assocRead] at h1
      subst hkk
      have hv : v = v' := by have := heq k; simpa [assocRead] using this
      subst hv
      have : rest = rest' := by
        refine ih hr hr' fun a => ?_
        by_cases ha : a = k
        · subst ha; rw [assocRead_below hr hk, assocRead_below hr' hk']
        · have := heq a; simpa [assocRead, ha] using this
      rw [this]

/-- Writes at different keys commute on memories in canonical form. -/
theorem assocWrite_comm {m : List (Nat × α)} (h : keysRising m = true) {a b : Nat} (hab : a ≠ b) (x y : α) :
    assocWrite (assocWrite m a x) b y = assocWrite (assocWrite m b y) a x := by
  refine assoc_ext (keysRising_write _ _ _ (keysRising_write _ _ _ h))
    (keysRising_write _ _ _ (keysRising_write _ _ _ h)) fun k => ?_
  simp only [assocRead_write]
  by_cases h1 : k = a <;> by_cases h2 : k = b <;> simp_all

/-- Every operation on the source memory keeps its canonical form. -/
theorem Memory.wf_fill (m : Memory) (a : Nat) (bytes : List Byte) (h : Memory.wf m = true) :
    Memory.wf (assocWriteList m a bytes) = true := keysRising_writeList bytes m a h

/-- Every operation on the raster keeps its canonical form. -/
theorem Raster.wf_store (m : Raster) (k : Nat) (p : Pixel) (h : Raster.wf m = true) :
    Raster.wf (assocWrite m k p) = true := keysRising_write m k p h

theorem Memory.wf_reset : Memory.wf State.reset.buf = true := rfl

theorem Raster.wf_empty : Raster.wf [] = true := rfl

end Sys2Proof.Machine
end

