-- ==== Sys2Proof/Laws/PerInstr.lean ====
section
/-! SUPPORT. Per instruction: the encoder and the opcode table agree. -/

namespace Sys2Proof.Laws.EncodeMatchesRow

/-- The encoding stands at the slot of the instruction's own row, that row applies to its format bits, and they fit
the width of the row's format (spec/30_encoding.md, how to read opcode_table.json). -/
def Statement (i : Instr) : Prop :=
  ∃ row ∈ opcodeRows, row.mnemonic = i.mnemonic ∧ (encode i).slot = row.slot ∧
    row.applies (encode i).formatValue = true ∧ (encode i).formatValue < 2 ^ row.width

/-- A SEL word whose row has an empty mask: the row applies to every value, and the value has two bits. -/
theorem sel_any (sel : BitVec 2) (row : Row) (hm : row.mask = 0) (hv : row.value = 0) (hw : row.width = 2) :
    row.applies (selByte sel).toNat = true ∧ (selByte sel).toNat < 2 ^ row.width := by
  rw [hw]
  refine ⟨by simp [Row.applies, hm, hv], ?_⟩
  have := sel.isLt
  simp only [selByte, BitVec.toNat_setWidth]
  omega

theorem rdNext : Statement (.rdNext) :=
  ⟨⟨"RD.NEXT", .next, 2, 0, 0⟩, by decide, rfl, rfl, (rfl : (0 &&& 0 == 0) = true), (by decide : 0 < 2 ^ 2)⟩

theorem rdRowP0 (cp : BitVec 1) : Statement (.rdRowP0 cp) :=
  ⟨⟨"RD.ROW.P0", .row, 2, 2, 0⟩, by decide, rfl, rfl, by revert cp; decide⟩

theorem rdRowP1 (cp : BitVec 1) : Statement (.rdRowP1 cp) :=
  ⟨⟨"RD.ROW.P1", .row, 2, 2, 2⟩, by decide, rfl, rfl, by revert cp; decide⟩

theorem rdColE (rp : BitVec 1) : Statement (.rdColE rp) :=
  ⟨⟨"RD.COL.E", .col, 2, 1, 0⟩, by decide, rfl, rfl, by revert rp; decide⟩

theorem rdColO (rp : BitVec 1) : Statement (.rdColO rp) :=
  ⟨⟨"RD.COL.O", .col, 2, 1, 1⟩, by decide, rfl, rfl, by revert rp; decide⟩

theorem rdOffs (sel : BitVec 2) : Statement (.rdOffs sel) :=
  ⟨⟨"RD.OFFS", .offs, 2, 0, 0⟩, by decide, rfl, rfl, sel_any sel _ rfl rfl rfl⟩

theorem bxChk (sel : BitVec 2) : Statement (.bxChk sel) :=
  ⟨⟨"BX.CHK", .chk, 2, 0, 0⟩, by decide, rfl, rfl, sel_any sel _ rfl rfl rfl⟩

theorem bxFetch (sel : BitVec 2) : Statement (.bxFetch sel) :=
  ⟨⟨"BX.FETCH", .fetch, 2, 0, 0⟩, by decide, rfl, rfl, sel_any sel _ rfl rfl rfl⟩

theorem bxSplit (word : SampleWord) : Statement (.bxSplit word) :=
  ⟨⟨"BX.SPLIT", .split, 32, 0, 0⟩, by decide, rfl, rfl, by simp [Row.applies], (beWord _ _ _ _).isLt⟩

theorem bxLselE (rp : BitVec 1) : Statement (.bxLselE rp) :=
  ⟨⟨"BX.LSEL.E", .lsel, 2, 1, 0⟩, by decide, rfl, rfl, by revert rp; decide⟩

theorem bxLselO (rp : BitVec 1) : Statement (.bxLselO rp) :=
  ⟨⟨"BX.LSEL.O", .lsel, 2, 1, 1⟩, by decide, rfl, rfl, by revert rp; decide⟩

theorem bxCenter (sel : BitVec 2) : Statement (.bxCenter sel) :=
  ⟨⟨"BX.CENTER", .center, 2, 0, 0⟩, by decide, rfl, rfl, sel_any sel _ rfl rfl rfl⟩

theorem cscR (sel : BitVec 2) : Statement (.cscR sel) :=
  ⟨⟨"CSC.R", .cscR, 2, 0, 0⟩, by decide, rfl, rfl, sel_any sel _ rfl rfl rfl⟩

theorem cscG (sel : BitVec 2) : Statement (.cscG sel) :=
  ⟨⟨"CSC.G", .cscG, 2, 0, 0⟩, by decide, rfl, rfl, sel_any sel _ rfl rfl rfl⟩

theorem cscB (sel : BitVec 2) : Statement (.cscB sel) :=
  ⟨⟨"CSC.B", .cscB, 2, 0, 0⟩, by decide, rfl, rfl, sel_any sel _ rfl rfl rfl⟩

theorem cscBias (sel : BitVec 2) : Statement (.cscBias sel) :=
  ⟨⟨"CSC.BIAS", .bias, 2, 0, 0⟩, by decide, rfl, rfl, sel_any sel _ rfl rfl rfl⟩

theorem cscClamp (sel : BitVec 2) : Statement (.cscClamp sel) :=
  ⟨⟨"CSC.CLAMP", .clamp, 2, 0, 0⟩, by decide, rfl, rfl, sel_any sel _ rfl rfl rfl⟩

theorem cscTrunc (sel : BitVec 2) : Statement (.cscTrunc sel) :=
  ⟨⟨"CSC.TRUNC", .trunc, 2, 0, 0⟩, by decide, rfl, rfl, sel_any sel _ rfl rfl rfl⟩

theorem rdStore (r g b : Byte) : Statement (.rdStore r g b) :=
  ⟨⟨"RD.STORE", .store, 24, 0, 0⟩, by decide, rfl, rfl, by simp [Row.applies], (r ++ g ++ b).isLt⟩

theorem cmdStatus : Statement (.cmdStatus) :=
  ⟨⟨"CMD.STATUS", .cmd, 2, 3, 0⟩, by decide, rfl, rfl, (rfl : (0 &&& 3 == 0) = true), (by decide : 0 < 2 ^ 2)⟩

theorem cmdStart (len : BitVec 32) : Statement (.cmdStart len) :=
  ⟨⟨"CMD.START", .cmd, 2, 3, 1⟩, by decide, rfl, rfl, (rfl : (1 &&& 3 == 1) = true), (by decide : 1 < 2 ^ 2)⟩

theorem cmdRdpix (x : BitVec 10) (y : BitVec 9) : Statement (.cmdRdpix x y) :=
  ⟨⟨"CMD.RDPIX", .cmd, 2, 3, 2⟩, by decide, rfl, rfl, (rfl : (2 &&& 3 == 2) = true), (by decide : 2 < 2 ^ 2)⟩

theorem cmdReserved : Statement (.cmdReserved) :=
  ⟨⟨"CMD.RESERVED", .cmd, 2, 3, 3⟩, by decide, rfl, rfl, (rfl : (3 &&& 3 == 3) = true), (by decide : 3 < 2 ^ 2)⟩

theorem cmdDone : Statement (.cmdDone) :=
  ⟨⟨"CMD.DONE", .done, 0, 0, 0⟩, by decide, rfl, rfl, (rfl : (0 &&& 0 == 0) = true), (by decide : 0 < 2 ^ 0)⟩

theorem pixEE (x : BitVec 10) (y : BitVec 9) : Statement (.pixEE x y) :=
  ⟨⟨"PIX.EE", .pix, 2, 3, 0⟩, by decide, rfl, rfl, (rfl : (0 &&& 3 == 0) = true), (by decide : 0 < 2 ^ 2)⟩

theorem pixEO (x : BitVec 10) (y : BitVec 9) : Statement (.pixEO x y) :=
  ⟨⟨"PIX.EO", .pix, 2, 3, 1⟩, by decide, rfl, rfl, (rfl : (1 &&& 3 == 1) = true), (by decide : 1 < 2 ^ 2)⟩

theorem pixOE (x : BitVec 10) (y : BitVec 9) : Statement (.pixOE x y) :=
  ⟨⟨"PIX.OE", .pix, 2, 3, 2⟩, by decide, rfl, rfl, (rfl : (2 &&& 3 == 2) = true), (by decide : 2 < 2 ^ 2)⟩

theorem pixOO (x : BitVec 10) (y : BitVec 9) : Statement (.pixOO x y) :=
  ⟨⟨"PIX.OO", .pix, 2, 3, 3⟩, by decide, rfl, rfl, (rfl : (3 &&& 3 == 3) = true), (by decide : 3 < 2 ^ 2)⟩

theorem extract (offset : BitVec 32) (parity : BitVec 1) : Statement (.extract offset parity) :=
  ⟨⟨"EXTRACT", .extract, 0, 0, 0⟩, by decide, rfl, rfl, (rfl : (0 &&& 0 == 0) = true), (by decide : 0 < 2 ^ 0)⟩

theorem convert (yc uc vc : BitVec 8) : Statement (.convert yc uc vc) :=
  ⟨⟨"CONVERT", .convert, 0, 0, 0⟩, by decide, rfl, rfl, (rfl : (0 &&& 0 == 0) = true), (by decide : 0 < 2 ^ 0)⟩

theorem normalize (v : Byte) : Statement (.normalize v) :=
  ⟨⟨"NORMALIZE", .normalize, 0, 0, 0⟩, by decide, rfl, rfl, (rfl : (0 &&& 0 == 0) = true), (by decide : 0 < 2 ^ 0)⟩

theorem decodeFrame (n : BitVec 32) : Statement (.decodeFrame n) :=
  ⟨⟨"DECODE", .decode, 0, 0, 0⟩, by decide, rfl, rfl, (rfl : (0 &&& 0 == 0) = true), (by decide : 0 < 2 ^ 0)⟩

end Sys2Proof.Laws.EncodeMatchesRow
end

