-- ==== Sys2Proof/Laws/State.lean ====
section
/-! SUPPORT. One lemma per field per named update of State, and what the derived reads of State do under the updates
the meanings make. -/

namespace Sys2Proof.Machine

variable (s : State)

/-! ## raise -/

@[simp] theorem raise_buf (e : ErrCode) : (raise e s).buf = s.buf := rfl
@[simp] theorem raise_len (e : ErrCode) : (raise e s).len = s.len := rfl
@[simp] theorem raise_cfgW (e : ErrCode) : (raise e s).cfgW = s.cfgW := rfl
@[simp] theorem raise_cfgH (e : ErrCode) : (raise e s).cfgH = s.cfgH := rfl
@[simp] theorem raise_status (e : ErrCode) : (raise e s).status = .error := rfl
@[simp] theorem raise_errcode (e : ErrCode) : (raise e s).errcode = e := rfl
@[simp] theorem raise_raster (e : ErrCode) : (raise e s).raster = s.raster := rfl
@[simp] theorem raise_pend (e : ErrCode) : (raise e s).pend = [] := rfl
@[simp] theorem raise_lat (e : ErrCode) : (raise e s).lat = s.lat := rfl
@[simp] theorem raise_reply (e : ErrCode) : (raise e s).reply = s.reply := rfl
@[simp] theorem raise_port (e : ErrCode) : (raise e s).port = s.port := rfl
@[simp] theorem raise_choices (e : ErrCode) : (raise e s).choices = s.choices := rfl
@[simp] theorem raise_draws (e : ErrCode) : (raise e s).draws = s.draws := rfl

/-! ## beginDecode -/

@[simp] theorem beginDecode_buf (n : BitVec 32) : (beginDecode n s).buf = s.buf := rfl
@[simp] theorem beginDecode_len (n : BitVec 32) : (beginDecode n s).len = n := rfl
@[simp] theorem beginDecode_cfgW (n : BitVec 32) : (beginDecode n s).cfgW = s.cfgW := rfl
@[simp] theorem beginDecode_cfgH (n : BitVec 32) : (beginDecode n s).cfgH = s.cfgH := rfl
@[simp] theorem beginDecode_status (n : BitVec 32) : (beginDecode n s).status = s.status := rfl
@[simp] theorem beginDecode_errcode (n : BitVec 32) : (beginDecode n s).errcode = .none := rfl
@[simp] theorem beginDecode_raster (n : BitVec 32) : (beginDecode n s).raster = [] := rfl
@[simp] theorem beginDecode_pend (n : BitVec 32) : (beginDecode n s).pend = s.pend := rfl
@[simp] theorem beginDecode_lat (n : BitVec 32) : (beginDecode n s).lat = s.lat := rfl
@[simp] theorem beginDecode_reply (n : BitVec 32) : (beginDecode n s).reply = s.reply := rfl
@[simp] theorem beginDecode_port (n : BitVec 32) : (beginDecode n s).port = s.port := rfl
@[simp] theorem beginDecode_choices (n : BitVec 32) : (beginDecode n s).choices = s.choices := rfl
@[simp] theorem beginDecode_draws (n : BitVec 32) : (beginDecode n s).draws = s.draws := rfl

/-! ## applyReset -/

@[simp] theorem applyReset_buf : (applyReset s).buf = s.buf := rfl
@[simp] theorem applyReset_len : (applyReset s).len = 0#32 := rfl
@[simp] theorem applyReset_cfgW : (applyReset s).cfgW = s.cfgW := rfl
@[simp] theorem applyReset_cfgH : (applyReset s).cfgH = s.cfgH := rfl
@[simp] theorem applyReset_status : (applyReset s).status = .idle := rfl
@[simp] theorem applyReset_errcode : (applyReset s).errcode = .none := rfl
@[simp] theorem applyReset_raster : (applyReset s).raster = [] := rfl
@[simp] theorem applyReset_pend : (applyReset s).pend = [] := rfl
@[simp] theorem applyReset_lat : (applyReset s).lat = Latches.zero := rfl
@[simp] theorem applyReset_reply : (applyReset s).reply = .none := rfl
@[simp] theorem applyReset_port : (applyReset s).port = s.port := rfl
@[simp] theorem applyReset_choices : (applyReset s).choices = s.choices := rfl
@[simp] theorem applyReset_draws : (applyReset s).draws = s.draws := rfl

/-! ## dropChoice -/

@[simp] theorem dropChoice_buf : (s.dropChoice).buf = s.buf := rfl
@[simp] theorem dropChoice_len : (s.dropChoice).len = s.len := rfl
@[simp] theorem dropChoice_cfgW : (s.dropChoice).cfgW = s.cfgW := rfl
@[simp] theorem dropChoice_cfgH : (s.dropChoice).cfgH = s.cfgH := rfl
@[simp] theorem dropChoice_status : (s.dropChoice).status = s.status := rfl
@[simp] theorem dropChoice_errcode : (s.dropChoice).errcode = s.errcode := rfl
@[simp] theorem dropChoice_raster : (s.dropChoice).raster = s.raster := rfl
@[simp] theorem dropChoice_pend : (s.dropChoice).pend = s.pend := rfl
@[simp] theorem dropChoice_lat : (s.dropChoice).lat = s.lat := rfl
@[simp] theorem dropChoice_reply : (s.dropChoice).reply = s.reply := rfl
@[simp] theorem dropChoice_port : (s.dropChoice).port = s.port := rfl
@[simp] theorem dropChoice_choices : (s.dropChoice).choices = s.choices.tail := rfl
@[simp] theorem dropChoice_draws : (s.dropChoice).draws = s.draws := rfl

/-! ## withFetchWord -/

@[simp] theorem withFetchWord_buf (nbits w : Nat) : (s.withFetchWord nbits w).buf = s.buf := rfl
@[simp] theorem withFetchWord_len (nbits w : Nat) : (s.withFetchWord nbits w).len = s.len := rfl
@[simp] theorem withFetchWord_cfgW (nbits w : Nat) : (s.withFetchWord nbits w).cfgW = s.cfgW := rfl
@[simp] theorem withFetchWord_cfgH (nbits w : Nat) : (s.withFetchWord nbits w).cfgH = s.cfgH := rfl
@[simp] theorem withFetchWord_status (nbits w : Nat) : (s.withFetchWord nbits w).status = s.status := rfl
@[simp] theorem withFetchWord_errcode (nbits w : Nat) : (s.withFetchWord nbits w).errcode = s.errcode := rfl
@[simp] theorem withFetchWord_raster (nbits w : Nat) : (s.withFetchWord nbits w).raster = s.raster := rfl
@[simp] theorem withFetchWord_pend (nbits w : Nat) : (s.withFetchWord nbits w).pend = s.pend := rfl
@[simp] theorem withFetchWord_lat (nbits w : Nat) : (s.withFetchWord nbits w).lat = s.lat := rfl
@[simp] theorem withFetchWord_reply (nbits w : Nat) : (s.withFetchWord nbits w).reply = s.reply := rfl
@[simp] theorem withFetchWord_port (nbits w : Nat) : (s.withFetchWord nbits w).port = .op (tableOpWord nbits w) :: s.port := rfl
@[simp] theorem withFetchWord_choices (nbits w : Nat) : (s.withFetchWord nbits w).choices = s.choices := rfl
@[simp] theorem withFetchWord_draws (nbits w : Nat) : (s.withFetchWord nbits w).draws = s.draws := rfl

/-! ## Derived reads under an update of one field -/

@[simp] theorem w_with_lat (new : Latches) : State.w { s with lat := new } = s.w := rfl
@[simp] theorem w_with_reply (new : Reply) : State.w { s with reply := new } = s.w := rfl
@[simp] theorem w_with_raster (new : Raster) : State.w { s with raster := new } = s.w := rfl
@[simp] theorem w_with_pend (new : List Pos) : State.w { s with pend := new } = s.w := rfl
@[simp] theorem w_with_status (new : Status) : State.w { s with status := new } = s.w := rfl
@[simp] theorem w_with_port (new : List Event) : State.w { s with port := new } = s.w := rfl
@[simp] theorem w_with_choices (new : List Nat) : State.w { s with choices := new } = s.w := rfl
@[simp] theorem w_with_draws (new : Nat) : State.w { s with draws := new } = s.w := rfl

@[simp] theorem h_with_lat (new : Latches) : State.h { s with lat := new } = s.h := rfl
@[simp] theorem h_with_reply (new : Reply) : State.h { s with reply := new } = s.h := rfl
@[simp] theorem h_with_raster (new : Raster) : State.h { s with raster := new } = s.h := rfl
@[simp] theorem h_with_pend (new : List Pos) : State.h { s with pend := new } = s.h := rfl
@[simp] theorem h_with_status (new : Status) : State.h { s with status := new } = s.h := rfl
@[simp] theorem h_with_port (new : List Event) : State.h { s with port := new } = s.h := rfl
@[simp] theorem h_with_choices (new : List Nat) : State.h { s with choices := new } = s.h := rfl
@[simp] theorem h_with_draws (new : Nat) : State.h { s with draws := new } = s.h := rfl

@[simp] theorem frameBytes_with_lat (new : Latches) : State.frameBytes { s with lat := new } = s.frameBytes := rfl
@[simp] theorem frameBytes_with_reply (new : Reply) : State.frameBytes { s with reply := new } = s.frameBytes := rfl
@[simp] theorem frameBytes_with_raster (new : Raster) : State.frameBytes { s with raster := new } = s.frameBytes := rfl
@[simp] theorem frameBytes_with_pend (new : List Pos) : State.frameBytes { s with pend := new } = s.frameBytes := rfl
@[simp] theorem frameBytes_with_status (new : Status) : State.frameBytes { s with status := new } = s.frameBytes := rfl
@[simp] theorem frameBytes_with_port (new : List Event) : State.frameBytes { s with port := new } = s.frameBytes := rfl
@[simp] theorem frameBytes_with_choices (new : List Nat) : State.frameBytes { s with choices := new } = s.frameBytes := rfl
@[simp] theorem frameBytes_with_draws (new : Nat) : State.frameBytes { s with draws := new } = s.frameBytes := rfl

@[simp] theorem dimensionsOk_with_lat (new : Latches) : State.dimensionsOk { s with lat := new } = s.dimensionsOk := rfl
@[simp] theorem dimensionsOk_with_reply (new : Reply) : State.dimensionsOk { s with reply := new } = s.dimensionsOk := rfl
@[simp] theorem dimensionsOk_with_raster (new : Raster) : State.dimensionsOk { s with raster := new } = s.dimensionsOk := rfl
@[simp] theorem dimensionsOk_with_pend (new : List Pos) : State.dimensionsOk { s with pend := new } = s.dimensionsOk := rfl
@[simp] theorem dimensionsOk_with_status (new : Status) : State.dimensionsOk { s with status := new } = s.dimensionsOk := rfl
@[simp] theorem dimensionsOk_with_port (new : List Event) : State.dimensionsOk { s with port := new } = s.dimensionsOk := rfl
@[simp] theorem dimensionsOk_with_choices (new : List Nat) : State.dimensionsOk { s with choices := new } = s.dimensionsOk := rfl
@[simp] theorem dimensionsOk_with_draws (new : Nat) : State.dimensionsOk { s with draws := new } = s.dimensionsOk := rfl

@[simp] theorem inRaster_with_lat (x y : Nat) (new : Latches) : State.inRaster { s with lat := new } x y = s.inRaster x y := rfl
@[simp] theorem inRaster_with_reply (x y : Nat) (new : Reply) : State.inRaster { s with reply := new } x y = s.inRaster x y := rfl
@[simp] theorem inRaster_with_raster (x y : Nat) (new : Raster) : State.inRaster { s with raster := new } x y = s.inRaster x y := rfl
@[simp] theorem inRaster_with_pend (x y : Nat) (new : List Pos) : State.inRaster { s with pend := new } x y = s.inRaster x y := rfl
@[simp] theorem inRaster_with_status (x y : Nat) (new : Status) : State.inRaster { s with status := new } x y = s.inRaster x y := rfl
@[simp] theorem inRaster_with_port (x y : Nat) (new : List Event) : State.inRaster { s with port := new } x y = s.inRaster x y := rfl
@[simp] theorem inRaster_with_choices (x y : Nat) (new : List Nat) : State.inRaster { s with choices := new } x y = s.inRaster x y := rfl
@[simp] theorem inRaster_with_draws (x y : Nat) (new : Nat) : State.inRaster { s with draws := new } x y = s.inRaster x y := rfl

@[simp] theorem cellIndex_with_lat (x y : Nat) (new : Latches) : State.cellIndex { s with lat := new } x y = s.cellIndex x y := rfl
@[simp] theorem cellIndex_with_reply (x y : Nat) (new : Reply) : State.cellIndex { s with reply := new } x y = s.cellIndex x y := rfl
@[simp] theorem cellIndex_with_raster (x y : Nat) (new : Raster) : State.cellIndex { s with raster := new } x y = s.cellIndex x y := rfl
@[simp] theorem cellIndex_with_pend (x y : Nat) (new : List Pos) : State.cellIndex { s with pend := new } x y = s.cellIndex x y := rfl
@[simp] theorem cellIndex_with_status (x y : Nat) (new : Status) : State.cellIndex { s with status := new } x y = s.cellIndex x y := rfl
@[simp] theorem cellIndex_with_port (x y : Nat) (new : List Event) : State.cellIndex { s with port := new } x y = s.cellIndex x y := rfl
@[simp] theorem cellIndex_with_choices (x y : Nat) (new : List Nat) : State.cellIndex { s with choices := new } x y = s.cellIndex x y := rfl
@[simp] theorem cellIndex_with_draws (x y : Nat) (new : Nat) : State.cellIndex { s with draws := new } x y = s.cellIndex x y := rfl

@[simp] theorem bufByte_with_lat (a : Nat) (new : Latches) : State.bufByte { s with lat := new } a = s.bufByte a := rfl
@[simp] theorem bufByte_with_reply (a : Nat) (new : Reply) : State.bufByte { s with reply := new } a = s.bufByte a := rfl
@[simp] theorem bufByte_with_raster (a : Nat) (new : Raster) : State.bufByte { s with raster := new } a = s.bufByte a := rfl
@[simp] theorem bufByte_with_pend (a : Nat) (new : List Pos) : State.bufByte { s with pend := new } a = s.bufByte a := rfl
@[simp] theorem bufByte_with_status (a : Nat) (new : Status) : State.bufByte { s with status := new } a = s.bufByte a := rfl
@[simp] theorem bufByte_with_port (a : Nat) (new : List Event) : State.bufByte { s with port := new } a = s.bufByte a := rfl
@[simp] theorem bufByte_with_choices (a : Nat) (new : List Nat) : State.bufByte { s with choices := new } a = s.bufByte a := rfl
@[simp] theorem bufByte_with_draws (a : Nat) (new : Nat) : State.bufByte { s with draws := new } a = s.bufByte a := rfl

@[simp] theorem memRead4_with_lat (a : Nat) (new : Latches) : State.memRead4 { s with lat := new } a = s.memRead4 a := rfl
@[simp] theorem memRead4_with_reply (a : Nat) (new : Reply) : State.memRead4 { s with reply := new } a = s.memRead4 a := rfl
@[simp] theorem memRead4_with_raster (a : Nat) (new : Raster) : State.memRead4 { s with raster := new } a = s.memRead4 a := rfl
@[simp] theorem memRead4_with_pend (a : Nat) (new : List Pos) : State.memRead4 { s with pend := new } a = s.memRead4 a := rfl
@[simp] theorem memRead4_with_status (a : Nat) (new : Status) : State.memRead4 { s with status := new } a = s.memRead4 a := rfl
@[simp] theorem memRead4_with_port (a : Nat) (new : List Event) : State.memRead4 { s with port := new } a = s.memRead4 a := rfl
@[simp] theorem memRead4_with_choices (a : Nat) (new : List Nat) : State.memRead4 { s with choices := new } a = s.memRead4 a := rfl
@[simp] theorem memRead4_with_draws (a : Nat) (new : Nat) : State.memRead4 { s with draws := new } a = s.memRead4 a := rfl

@[simp] theorem offsetOk_with_lat (a : Nat) (new : Latches) : State.offsetOk { s with lat := new } a = s.offsetOk a := rfl
@[simp] theorem offsetOk_with_reply (a : Nat) (new : Reply) : State.offsetOk { s with reply := new } a = s.offsetOk a := rfl
@[simp] theorem offsetOk_with_raster (a : Nat) (new : Raster) : State.offsetOk { s with raster := new } a = s.offsetOk a := rfl
@[simp] theorem offsetOk_with_pend (a : Nat) (new : List Pos) : State.offsetOk { s with pend := new } a = s.offsetOk a := rfl
@[simp] theorem offsetOk_with_status (a : Nat) (new : Status) : State.offsetOk { s with status := new } a = s.offsetOk a := rfl
@[simp] theorem offsetOk_with_port (a : Nat) (new : List Event) : State.offsetOk { s with port := new } a = s.offsetOk a := rfl
@[simp] theorem offsetOk_with_choices (a : Nat) (new : List Nat) : State.offsetOk { s with choices := new } a = s.offsetOk a := rfl
@[simp] theorem offsetOk_with_draws (a : Nat) (new : Nat) : State.offsetOk { s with draws := new } a = s.offsetOk a := rfl

@[simp] theorem cell_with_lat (x y : Nat) (new : Latches) : State.cell { s with lat := new } x y = s.cell x y := rfl
@[simp] theorem cell_with_reply (x y : Nat) (new : Reply) : State.cell { s with reply := new } x y = s.cell x y := rfl
@[simp] theorem cell_with_pend (x y : Nat) (new : List Pos) : State.cell { s with pend := new } x y = s.cell x y := rfl
@[simp] theorem cell_with_status (x y : Nat) (new : Status) : State.cell { s with status := new } x y = s.cell x y := rfl
@[simp] theorem cell_with_port (x y : Nat) (new : List Event) : State.cell { s with port := new } x y = s.cell x y := rfl
@[simp] theorem cell_with_choices (x y : Nat) (new : List Nat) : State.cell { s with choices := new } x y = s.cell x y := rfl
@[simp] theorem cell_with_draws (x y : Nat) (new : Nat) : State.cell { s with draws := new } x y = s.cell x y := rfl

@[simp] theorem w_raise (e : ErrCode) : State.w (raise e s) = s.w := rfl
@[simp] theorem h_raise (e : ErrCode) : State.h (raise e s) = s.h := rfl
@[simp] theorem frameBytes_raise (e : ErrCode) : State.frameBytes (raise e s) = s.frameBytes := rfl
@[simp] theorem dimensionsOk_raise (e : ErrCode) : State.dimensionsOk (raise e s) = s.dimensionsOk := rfl
@[simp] theorem inRaster_raise (e : ErrCode) (x y : Nat) : State.inRaster (raise e s) x y = s.inRaster x y := rfl
@[simp] theorem cellIndex_raise (e : ErrCode) (x y : Nat) : State.cellIndex (raise e s) x y = s.cellIndex x y := rfl
@[simp] theorem bufByte_raise (e : ErrCode) (a : Nat) : State.bufByte (raise e s) a = s.bufByte a := rfl
@[simp] theorem memRead4_raise (e : ErrCode) (a : Nat) : State.memRead4 (raise e s) a = s.memRead4 a := rfl
@[simp] theorem offsetOk_raise (e : ErrCode) (a : Nat) : State.offsetOk (raise e s) a = s.offsetOk a := rfl
@[simp] theorem cell_raise (e : ErrCode) (x y : Nat) : State.cell (raise e s) x y = s.cell x y := rfl

@[simp] theorem w_beginDecode (n : BitVec 32) : State.w (beginDecode n s) = s.w := rfl
@[simp] theorem h_beginDecode (n : BitVec 32) : State.h (beginDecode n s) = s.h := rfl
@[simp] theorem frameBytes_beginDecode (n : BitVec 32) : State.frameBytes (beginDecode n s) = s.frameBytes := rfl
@[simp] theorem dimensionsOk_beginDecode (n : BitVec 32) : State.dimensionsOk (beginDecode n s) = s.dimensionsOk := rfl
@[simp] theorem inRaster_beginDecode (n : BitVec 32) (x y : Nat) : State.inRaster (beginDecode n s) x y = s.inRaster x y := rfl
@[simp] theorem cellIndex_beginDecode (n : BitVec 32) (x y : Nat) : State.cellIndex (beginDecode n s) x y = s.cellIndex x y := rfl
@[simp] theorem bufByte_beginDecode (n : BitVec 32) (a : Nat) : State.bufByte (beginDecode n s) a = s.bufByte a := rfl
@[simp] theorem memRead4_beginDecode (n : BitVec 32) (a : Nat) : State.memRead4 (beginDecode n s) a = s.memRead4 a := rfl

@[simp] theorem w_applyReset : State.w (applyReset s) = s.w := rfl
@[simp] theorem h_applyReset : State.h (applyReset s) = s.h := rfl
@[simp] theorem frameBytes_applyReset : State.frameBytes (applyReset s) = s.frameBytes := rfl
@[simp] theorem dimensionsOk_applyReset : State.dimensionsOk (applyReset s) = s.dimensionsOk := rfl
@[simp] theorem inRaster_applyReset (x y : Nat) : State.inRaster (applyReset s) x y = s.inRaster x y := rfl
@[simp] theorem cellIndex_applyReset (x y : Nat) : State.cellIndex (applyReset s) x y = s.cellIndex x y := rfl
@[simp] theorem bufByte_applyReset (a : Nat) : State.bufByte (applyReset s) a = s.bufByte a := rfl
@[simp] theorem memRead4_applyReset (a : Nat) : State.memRead4 (applyReset s) a = s.memRead4 a := rfl

@[simp] theorem w_dropChoice : State.w (s.dropChoice) = s.w := rfl
@[simp] theorem h_dropChoice : State.h (s.dropChoice) = s.h := rfl
@[simp] theorem frameBytes_dropChoice : State.frameBytes (s.dropChoice) = s.frameBytes := rfl
@[simp] theorem dimensionsOk_dropChoice : State.dimensionsOk (s.dropChoice) = s.dimensionsOk := rfl
@[simp] theorem inRaster_dropChoice (x y : Nat) : State.inRaster (s.dropChoice) x y = s.inRaster x y := rfl
@[simp] theorem cellIndex_dropChoice (x y : Nat) : State.cellIndex (s.dropChoice) x y = s.cellIndex x y := rfl
@[simp] theorem bufByte_dropChoice (a : Nat) : State.bufByte (s.dropChoice) a = s.bufByte a := rfl
@[simp] theorem memRead4_dropChoice (a : Nat) : State.memRead4 (s.dropChoice) a = s.memRead4 a := rfl
@[simp] theorem offsetOk_dropChoice (a : Nat) : State.offsetOk (s.dropChoice) a = s.offsetOk a := rfl
@[simp] theorem cell_dropChoice (x y : Nat) : State.cell (s.dropChoice) x y = s.cell x y := rfl

@[simp] theorem w_withFetchWord (nbits w : Nat) : State.w (s.withFetchWord nbits w) = s.w := rfl
@[simp] theorem h_withFetchWord (nbits w : Nat) : State.h (s.withFetchWord nbits w) = s.h := rfl
@[simp] theorem frameBytes_withFetchWord (nbits w : Nat) : State.frameBytes (s.withFetchWord nbits w) = s.frameBytes := rfl
@[simp] theorem dimensionsOk_withFetchWord (nbits w : Nat) : State.dimensionsOk (s.withFetchWord nbits w) = s.dimensionsOk := rfl
@[simp] theorem inRaster_withFetchWord (nbits w : Nat) (x y : Nat) : State.inRaster (s.withFetchWord nbits w) x y = s.inRaster x y := rfl
@[simp] theorem cellIndex_withFetchWord (nbits w : Nat) (x y : Nat) : State.cellIndex (s.withFetchWord nbits w) x y = s.cellIndex x y := rfl
@[simp] theorem bufByte_withFetchWord (nbits w : Nat) (a : Nat) : State.bufByte (s.withFetchWord nbits w) a = s.bufByte a := rfl
@[simp] theorem memRead4_withFetchWord (nbits w : Nat) (a : Nat) : State.memRead4 (s.withFetchWord nbits w) a = s.memRead4 a := rfl
@[simp] theorem offsetOk_withFetchWord (nbits w : Nat) (a : Nat) : State.offsetOk (s.withFetchWord nbits w) a = s.offsetOk a := rfl
@[simp] theorem cell_withFetchWord (nbits w : Nat) (x y : Nat) : State.cell (s.withFetchWord nbits w) x y = s.cell x y := rfl

end Sys2Proof.Machine
end

