-- ==== Sys2Proof/Laws/Pixel.lean ====
section
/-! SUPPORT. What the arithmetic of one channel gives, what a store does, and everything a PIX can do. -/

namespace Sys2Proof.Machine

/-! ## One channel (spec/41_colorspace_conversion.md R85, R86, R88) -/

/-- Truncation toward zero of a value that is not negative is its floor (R86). -/
theorem truncRat_eq_floor {q : Rat} (h : 0 ≤ q) : truncRat q = ⌊q⌋ := by
  rw [truncRat, Rat.floor_def', Int.tdiv_eq_ediv_of_nonneg (Rat.num_nonneg.2 h)]

/-- "for every rational `q`, `trunc(clamp(q, 0, 255)) = clamp(floor(q), 0, 255)`" (R88). -/
theorem truncRat_clampRat (q : Rat) : truncRat (clampRat q 0 255) = clampInt ⌊q⌋ 0 255 := by
  unfold clampRat clampInt
  by_cases h0 : q < 0
  · have : ⌊q⌋ < 0 := Int.floor_lt.2 (by simpa using h0)
    simp [h0, this, truncRat]
  · have hq : 0 ≤ q := le_of_not_gt h0
    have hf : ¬ ⌊q⌋ < 0 := not_lt.2 (Int.floor_nonneg.2 hq)
    by_cases h1 : 255 < q
    · have h255 : (255 : Int) ≤ ⌊q⌋ := Int.le_floor.2 (by exact_mod_cast h1.le)
      have : truncRat 255 = 255 := by decide +kernel
      simp only [h0, h1, hf, if_true, if_false, this]
      split <;> omega
    · have hle : ¬ 255 < ⌊q⌋ := not_lt.2 (by
        have : (⌊q⌋ : Rat) ≤ 255 := le_trans (Int.floor_le q) (le_of_not_gt h1)
        exact_mod_cast this)
      simp [h0, h1, hf, hle, truncRat_eq_floor hq]

theorem clampInt_bounds (n : Int) : 0 ≤ clampInt n 0 255 ∧ clampInt n 0 255 ≤ 255 := by
  unfold clampInt; split
  · omega
  · split <;> omega

/-- A channel after clamp and truncation is the clamp of the floor. -/
theorem channelOf_clampRat (q : Rat) : channelOf (clampRat q 0 255) = channelInt ⌊q⌋ := by
  simp [channelOf, truncRat_clampRat, clampInt_bounds, channelInt]

/-- The number in a channel. -/
theorem channelInt_toNat (n : Int) : ((channelInt n).toNat : Int) = clampInt n 0 255 := by
  have := clampInt_bounds n
  simp [channelInt, BitVec.toNat_ofInt]; omega

/-! ## The store -/

/-- Everything a store can do. -/
theorem storePixel_cases (x y : Nat) (p : Pixel) (s : State) :
    (s.inRaster x y = true ∧
      storePixel x y p s = .next { s with raster := assocWrite s.raster (s.cellIndex x y) p }) ∨
    (s.inRaster x y = false ∧ storePixel x y p s = .fault .rasterOutOfRange) := by
  unfold storePixel; cases h : s.inRaster x y <;> simp

theorem inRaster_iff (s : State) (x y : Nat) : s.inRaster x y = true ↔ x < s.cfgW.toNat ∧ y < s.cfgH.toNat := by
  unfold State.inRaster State.w State.h; simp

/-- Different positions of the raster have different cell indexes (R38). -/
theorem cellIndex_inj (s : State) {x y x' y' : Nat} (hx : x < s.cfgW.toNat) (hx' : x' < s.cfgW.toNat)
    (h : s.cellIndex x y = s.cellIndex x' y') : x = x' ∧ y = y' := by
  unfold State.cellIndex State.w at h
  have hm : (x + y * s.cfgW.toNat) % s.cfgW.toNat = (x' + y' * s.cfgW.toNat) % s.cfgW.toNat := by
    rw [Nat.add_comm x, Nat.add_comm x', h]
  rw [Nat.add_mul_mod_self_right, Nat.add_mul_mod_self_right, Nat.mod_eq_of_lt hx, Nat.mod_eq_of_lt hx'] at hm
  subst hm
  refine ⟨rfl, ?_⟩
  have : y * s.cfgW.toNat = y' * s.cfgW.toNat := by omega
  exact Nat.eq_of_mul_eq_mul_right (by omega) this

/-- A cell depends on the dimensions and the raster alone. -/
theorem cell_congr {s t : State} (hw : t.cfgW = s.cfgW) (hh : t.cfgH = s.cfgH) (hr : t.raster = s.raster)
    (x y : Nat) : t.cell x y = s.cell x y := by
  cases s; cases t; cases hw; cases hh; cases hr; rfl

/-- The closed-form pixel depends on BUF and the dimensions alone. -/
theorem closedPixel_congr {s t : State} (hb : t.buf = s.buf) (hw : t.cfgW = s.cfgW) (hh : t.cfgH = s.cfgH)
    (x y : Nat) : closedPixel t x y = closedPixel s x y := by
  cases s; cases t; cases hb; cases hw; cases hh; rfl

/-- A cell after a store. -/
theorem cell_store (s : State) {x y : Nat} (p : Pixel) (h : s.inRaster x y = true) (x' y' : Nat) :
    State.cell { s with raster := assocWrite s.raster (s.cellIndex x y) p } x' y' =
      if x' = x ∧ y' = y then some p else s.cell x' y' := by
  have h1 := (inRaster_iff s x y).1 h
  by_cases he : x' = x ∧ y' = y
  · obtain ⟨rfl, rfl⟩ := he
    simp [State.cell, h]
  · rw [if_neg he]
    by_cases hr : s.inRaster x' y' = true
    · have h2 := (inRaster_iff s x' y').1 hr
      have hne : s.cellIndex x' y' ≠ s.cellIndex x y := fun hc => he (cellIndex_inj s h2.1 h1.1 hc)
      simp [State.cell, hr, assocRead_write_other _ hne]
    · simp [State.cell, hr]

/-! ## PIX (R107) -/

@[simp] theorem unlessError_error {s : State} (h : s.status = .error) (o : Host.Outcome State Fault Refusal) :
    unlessError s o = .refused .notEnabled := if_pos h

@[simp] theorem unlessError_run {s : State} (h : s.status ≠ .error) (o : Host.Outcome State Fault Refusal) :
    unlessError s o = o := if_neg h

/-- An operation that can raise and goes on was not in ERROR (R140). -/
theorem unlessError_next {s t : State} {o : Host.Outcome State Fault Refusal} (h : unlessError s o = .next t) :
    s.status ≠ .error ∧ o = .next t := by
  by_cases he : s.status = .error
  · rw [unlessError_error he] at h; cases h
  · exact ⟨he, by rwa [unlessError_run he] at h⟩

/-- Everything a PIX can do outside ERROR: store the converted pixel, fault outside the raster, or raise. -/
theorem runPixel_cases (sel : BitVec 2) (x y : Nat) {s : State} (he : s.status ≠ .error) :
    (s.offsetOk (addressLat sel x y s).offset = true ∧
      runPixel sel x y s = storePixel x y (latPixel (convertLat (extractWord s (addressLat sel x y s)))) s) ∨
    (s.offsetOk (addressLat sel x y s).offset = false ∧ runPixel sel x y s = .next (raise .internal s)) := by
  unfold runPixel extractLat
  rw [unlessError_run he]
  cases h : s.offsetOk (addressLat sel x y s).offset <;> simp

end Sys2Proof.Machine
end

