-- ==== Sys2Proof/Laws/Step.lean ====
section
/-! SUPPORT. What each composite operation and each move of the decoder can do, said once: where it answers a next
state, that state. Later proofs cite these instead of unfolding the operations. -/

namespace Sys2Proof.Machine

/-! ## The positions of a frame -/

theorem allPositions_length (w h : Nat) : (allPositions w h).length = h * w := by
  simp [allPositions, List.length_flatMap, rowPositions]

theorem mem_allPositions (w h : Nat) (p : Pos) : p ∈ allPositions w h ↔ p.x < w ∧ p.y < h := by
  obtain ⟨x, y⟩ := p
  simp [allPositions, rowPositions]; tauto

theorem allPositions_nodup (w h : Nat) : (allPositions w h).Nodup := by
  unfold allPositions
  rw [List.nodup_flatMap]
  refine ⟨fun y _ => List.Nodup.map (fun a b h => by simpa using h) List.nodup_range, ?_⟩
  refine List.Pairwise.imp_of_mem ?_ (List.nodup_range (n := h))
  intro a b _ _ hab
  simp only [Function.onFun, List.disjoint_left, rowPositions, List.mem_map, not_exists, not_and]
  rintro _ ⟨_, _, rfl⟩ _ _ h
  exact hab (congrArg Pos.y h).symm

/-! ## One pixel -/

/-- A PIX that goes on was not in ERROR (R140), and has stored one pixel in its cell, or raised. -/
theorem runPixel_next {sel : BitVec 2} {x y : Nat} {s t : State} (h : runPixel sel x y s = .next t) :
    s.status ≠ .error ∧ ((s.inRaster x y = true ∧ ∃ p, t = { s with raster := assocWrite s.raster (s.cellIndex x y) p }) ∨
      t = raise .internal s) := by
  have he := (unlessError_next h).1
  refine ⟨he, ?_⟩
  rcases runPixel_cases sel x y he with ⟨_, e⟩ | ⟨_, e⟩ <;> rw [e] at h
  · rcases storePixel_cases x y (latPixel (convertLat (extractWord s (addressLat sel x y s)))) s with
      ⟨hr, e'⟩ | ⟨_, e'⟩ <;> rw [e'] at h <;> cases h
    exact .inl ⟨hr, _, rfl⟩
  · cases h; exact .inr rfl

/-- A RD.NEXT that goes on was enabled, and has decoded a pixel and taken its position out of PEND, or raised. -/
theorem execRdNext_next {s t : State} (h : execRdNext s = .next t) :
    s.status = .busy ∧
      ((∃ r, t = { s with choices := s.choices.tail, raster := r, pend := s.pend.eraseIdx s.choiceIndex }) ∨
        t = raise .internal s.dropChoice) := by
  unfold execRdNext at h
  split at h
  · rename_i hb
    refine ⟨hb, ?_⟩
    split at h
    · rename_i p _
      cases hr : runPixel (selOf p.x p.y) p.x p.y s.dropChoice with
      | next u =>
        rw [hr] at h
        cases h
        rcases (runPixel_next hr).2 with ⟨_, q, rfl⟩ | rfl
        · exact .inl ⟨_, rfl⟩
        · right; simp [raise]
      | fault f => rw [hr] at h; cases h
      | refused f => rw [hr] at h; cases h
    · cases h
  · cases h

/-- A BX.CHK that goes on has passed or raised. -/
theorem execBxChk_next (sel : BitVec 2) {s t : State} (h : execBxChk sel s = .next t) :
    s.status ≠ .error ∧ (t = s ∨ t = raise .internal s) := by
  obtain ⟨he, h⟩ := unlessError_next h
  refine ⟨he, ?_⟩
  split at h <;> cases h
  · exact .inl rfl
  · exact .inr rfl

/-- An EXTRACT that goes on has answered, and perhaps raised. -/
theorem execExtract_next {offset : BitVec 32} {parity : BitVec 1} {s t : State}
    (h : execExtract offset parity s = .next t) :
    s.status ≠ .error ∧ ∃ a, t = { s with reply := a } ∨ t = { raise .internal s with reply := a } := by
  obtain ⟨he, h⟩ := unlessError_next h
  refine ⟨he, ?_⟩
  split at h <;> cases h
  · exact ⟨_, .inl rfl⟩
  · exact ⟨_, .inr rfl⟩

/-! ## Commands -/

/-- A CMD.DONE that goes on was enabled. -/
theorem execCmdDone_next {s t : State} (h : execCmdDone s = .next t) :
    s.status = .busy ∧ s.pend = [] ∧ t = { s with status := .done } := by
  unfold execCmdDone at h
  split at h
  · rename_i hc; cases h; exact ⟨hc.1, hc.2, rfl⟩
  · cases h

/-- What a CMD.START that goes on can change. -/
theorem execCmdStart_next {n : BitVec 32} {s t : State} (h : execCmdStart n s = .next t) :
    ∃ e p st, t = { s with len := n, errcode := e, raster := [], pend := p, status := st } := by
  unfold execCmdStart at h
  split at h
  · cases h
  · split at h
    · cases h
    · split at h <;> injection h with h <;> exact ⟨_, _, _, h.symm⟩

/-- A read of a cell changes nothing but the count of free draws. -/
theorem readCell_state (x y : Nat) (s : State) : ∃ d, (readCell x y s).2 = { s with draws := d } := by
  unfold readCell; split <;> exact ⟨_, rfl⟩

theorem readCells_state : ∀ (ps : List Pos) (s : State), ∃ d, (readCells ps s).2 = { s with draws := d }
  | [], s => ⟨s.draws, rfl⟩
  | p :: ps, s => by
    obtain ⟨d, h⟩ := readCell_state p.x p.y s
    obtain ⟨d', h'⟩ := readCells_state ps (readCell p.x p.y s).2
    exact ⟨d', by rw [h] at h'; change (readCells ps (readCell p.x p.y s).2).2 = _; rw [h, h']⟩

/-- A host write that goes on was made while not BUSY and inside the source space. -/
theorem hostFill_next {a : Nat} {bytes : List Byte} {s t : State} (h : hostFill a bytes s = .next t) :
    s.status ≠ .busy ∧ a + bytes.length ≤ 2 ^ 32 ∧ t = { s with buf := assocWriteList s.buf a bytes } := by
  unfold hostFill at h
  split at h
  · cases h
  · rename_i hb
    split at h
    · rename_i hl; cases h; exact ⟨hb, hl, rfl⟩
    · cases h

/-! ## The decoder -/

/-- What a move of the decoder can change. -/
theorem decoderStep_next {s t : State} (h : decoderStep s = .next t) :
    ∃ c r p st e, t = { s with choices := c, raster := r, pend := p, status := st, errcode := e } := by
  unfold decoderStep at h
  split at h
  · split at h
    · obtain ⟨_, _, rfl⟩ := execCmdDone_next h; exact ⟨_, _, _, _, _, rfl⟩
    · rcases (execRdNext_next h).2 with ⟨r, rfl⟩ | rfl <;> exact ⟨_, _, _, _, _, rfl⟩
  · cases h; exact ⟨_, _, _, _, _, rfl⟩

/-- Outside BUSY the decoder does nothing (R147). -/
theorem decoderStep_idle {s : State} (h : s.status ≠ .busy) : decoderStep s = .next s := by
  simp [decoderStep, h]

theorem runDecoder_next : ∀ (n : Nat) {s t : State}, runDecoder n s = .next t →
    ∃ c r p st e, t = { s with choices := c, raster := r, pend := p, status := st, errcode := e }
  | 0, s, t, h => by cases h; exact ⟨_, _, _, _, _, rfl⟩
  | n + 1, s, t, h => by
    rw [runDecoder] at h
    split at h
    · split at h
      · rename_i u hu
        obtain ⟨_, _, _, _, _, rfl⟩ := decoderStep_next hu
        obtain ⟨_, _, _, _, _, rfl⟩ := runDecoder_next n h
        exact ⟨_, _, _, _, _, rfl⟩
      · cases h
      · cases h
    · cases h; exact ⟨_, _, _, _, _, rfl⟩

/-- What the end of a DECODE can change. -/
theorem decodeReply_state (s : State) : ∃ a d, decodeReply s = { s with reply := a, draws := d } := by
  unfold decodeReply
  split
  · obtain ⟨d, h⟩ := readCells_state (allPositions s.w s.h) s
    generalize readCells (allPositions s.w s.h) s = r at h ⊢
    obtain ⟨cs, u⟩ := r
    dsimp only at h ⊢
    exact ⟨_, _, by rw [h]⟩
  · exact ⟨_, _, rfl⟩

/-- What a DECODE that goes on can change. -/
theorem execDecodeFrame_next {n : BitVec 32} {s t : State} (h : execDecodeFrame n s = .next t) :
    ∃ c r p st e a d, t = { s with len := n, choices := c, raster := r, pend := p, status := st, errcode := e,
                                   reply := a, draws := d } := by
  unfold execDecodeFrame at h
  split at h
  · rename_i u hu
    obtain ⟨_, _, _, rfl⟩ := execCmdStart_next hu
    split at h
    · rename_i v hv
      obtain ⟨_, _, _, _, _, rfl⟩ := runDecoder_next _ hv
      obtain ⟨_, _, e⟩ := decodeReply_state _
      injection h with h
      rw [e] at h
      exact ⟨_, _, _, _, _, _, _, h.symm⟩
    · cases h
    · cases h
  · cases h
  · cases h

/-! ## Runs -/

/-- The first step of a run. -/
theorem run_succ (M : Host.Core) (k : Nat) {s t : M.State} (h : M.step s = .next t) :
    M.run (k + 1) s = M.run k t := by
  rw [Host.Core.run, h]

/-- A run that goes on has a first step that goes on. -/
theorem run_first (M : Host.Core) (k : Nat) {s u : M.State} (h : M.run (k + 1) s = .next u) :
    ∃ t, M.step s = .next t := by
  rw [Host.Core.run] at h
  cases hs : M.step s with
  | next t => exact ⟨t, rfl⟩
  | fault f => rw [hs] at h; cases h
  | refused f => rw [hs] at h; cases h

end Sys2Proof.Machine
end

