-- ==== Sys2Proof/Tests/Slice0.lean ====
section
/-! SUPPORT. The model's own tests. Expected values are those of spec/95_test_vectors.md and of the examples in the
rules; words are written out from the formats of spec/30_encoding.md. After them, for every statement with hypotheses,
a witness that meets them. -/

namespace Sys2Proof.Tests

open Sys2Proof Sys2Proof.Machine

/-- The next state, if there is one. -/
def nextOf : Host.Outcome State Fault Refusal → Option State
  | .next t => some t
  | .fault _ => none
  | .refused _ => none

/-- The fault, if there is one. -/
def faultOf : Host.Outcome State Fault Refusal → Option Fault
  | .next _ => none
  | .fault f => some f
  | .refused _ => none

/-- The refusal, if there is one. -/
def refusalOf : Host.Outcome State Fault Refusal → Option Refusal
  | .next _ => none
  | .fault _ => none
  | .refused r => some r

/-- The value of a decode that succeeds. -/
def decodedOf (w : OpWord) : Option Instr := (decode w).toOption

/-- The error of a decode that fails. -/
def errorOf (w : OpWord) : Option DecodeError :=
  match decode w with
  | .ok _ => none
  | .error e => some e

/-- The reset state with a latched length of one frame. -/
def frameState : State := { State.reset with len := 691200#32 }

/-- At a position. -/
def atPos (x y : Nat) : State := { frameState with lat := { Latches.zero with x := x, y := y } }

/-- With an address and the word 5A 51 F0 91 of table BX in BUF there. -/
def atOffset (a : Nat) : State :=
  { frameState with buf := [(345600, 0x5A#8), (345601, 0x51#8), (345602, 0xF0#8), (345603, 0x91#8)]
                    lat := { Latches.zero with offset := a } }

/-- BUF of program P3, the words at 0, 345600 and 691196. -/
def sparseState : State :=
  { frameState with buf := [(0, 0x80#8), (1, 0xFF#8), (2, 0x80#8), (3, 0x00#8),
      (345600, 0x5A#8), (345601, 0x51#8), (345602, 0xF0#8), (345603, 0x91#8),
      (691196, 0x36#8), (691197, 0x29#8), (691198, 0x22#8), (691199, 0xC8#8)] }

/-- A running decode with some positions pending. -/
def busyState (pend : List Pos) : State := { sparseState with status := .busy, pend := pend }

/-- The frame of program P5. -/
def smallFrame : List Byte :=
  [0x80#8, 0x10#8, 0x80#8, 0xEB#8, 0x5A#8, 0x51#8, 0xF0#8, 0x91#8,
   0x36#8, 0x29#8, 0x22#8, 0xC8#8, 0xBC#8, 0x64#8, 0xA3#8, 0x2C#8,
   0x00#8, 0x00#8, 0x00#8, 0x00#8, 0xFF#8, 0xFF#8, 0xFF#8, 0xFF#8,
   0x80#8, 0x00#8, 0x80#8, 0xFF#8, 0xF0#8, 0x29#8, 0x6E#8, 0x4D#8]

/-- The 4 by 4 instance of program P5 (a test of a model written over `W` and `H`, R5). -/
def smallState : State :=
  { State.reset with cfgW := 4#10, cfgH := 4#9, buf := assocWriteList [] 0 smallFrame }

/-! ## WellFormed: ill-formed terms are refused (R54, R107) -/

theorem test_wf_pix_wrong_row_parity : Instr.wellFormed (.pixEE 0#10 1#9) = false := by decide
theorem test_wf_pix_wrong_column_parity : Instr.wellFormed (.pixOE 1#10 1#9) = false := by decide
theorem test_wf_pix_column_out_of_range : Instr.wellFormed (.pixEE 720#10 0#9) = false := by decide
theorem test_wf_pix_row_out_of_range : Instr.wellFormed (.pixEE 0#10 480#9) = false := by decide
theorem test_wf_pix_last_position : Instr.wellFormed (.pixOO 719#10 479#9) = true := by decide

/-! ## Decoding: one word for each operation -/

-- SEL words (R54): bit 1 is RP, bit 0 is CP
theorem test_decode_rdNext : decodedOf ⟨.next, [0b11#8]⟩ = some .rdNext := by decide
theorem test_decode_rdRowP0 : decodedOf ⟨.row, [0b01#8]⟩ = some (.rdRowP0 1#1) := by decide
theorem test_decode_rdRowP1 : decodedOf ⟨.row, [0b10#8]⟩ = some (.rdRowP1 0#1) := by decide
theorem test_decode_rdColE : decodedOf ⟨.col, [0b10#8]⟩ = some (.rdColE 1#1) := by decide
theorem test_decode_rdColO : decodedOf ⟨.col, [0b01#8]⟩ = some (.rdColO 0#1) := by decide
theorem test_decode_rdOffs : decodedOf ⟨.offs, [0b10#8]⟩ = some (.rdOffs 0b10#2) := by decide
theorem test_decode_bxChk : decodedOf ⟨.chk, [0b01#8]⟩ = some (.bxChk 0b01#2) := by decide
theorem test_decode_bxFetch : decodedOf ⟨.fetch, [0b11#8]⟩ = some (.bxFetch 0b11#2) := by decide
theorem test_decode_bxLselE : decodedOf ⟨.lsel, [0b10#8]⟩ = some (.bxLselE 1#1) := by decide
theorem test_decode_bxLselO : decodedOf ⟨.lsel, [0b11#8]⟩ = some (.bxLselO 1#1) := by decide
theorem test_decode_bxCenter : decodedOf ⟨.center, [0b01#8]⟩ = some (.bxCenter 0b01#2) := by decide
theorem test_decode_cscR : decodedOf ⟨.cscR, [0b10#8]⟩ = some (.cscR 0b10#2) := by decide
theorem test_decode_cscG : decodedOf ⟨.cscG, [0b11#8]⟩ = some (.cscG 0b11#2) := by decide
theorem test_decode_cscB : decodedOf ⟨.cscB, [0b00#8]⟩ = some (.cscB 0b00#2) := by decide
theorem test_decode_cscBias : decodedOf ⟨.bias, [0b01#8]⟩ = some (.cscBias 0b01#2) := by decide
theorem test_decode_cscClamp : decodedOf ⟨.clamp, [0b10#8]⟩ = some (.cscClamp 0b10#2) := by decide
theorem test_decode_cscTrunc : decodedOf ⟨.trunc, [0b11#8]⟩ = some (.cscTrunc 0b11#2) := by decide
-- the Sample Word (R51) and the cell word (R56), the most significant byte first
theorem test_decode_bxSplit : decodedOf ⟨.split, [0x5A#8, 0x51#8, 0xF0#8, 0x91#8]⟩ = some (.bxSplit 0x5A51F091#32) := by
  decide
theorem test_decode_rdStore : decodedOf ⟨.store, [237#8, 30#8, 3#8]⟩ = some (.rdStore 237#8 30#8 3#8) := by decide
-- host commands (R55); operand bytes as log 2 lays them out
theorem test_decode_cmdStatus : decodedOf ⟨.cmd, [0b00#8, 0#8, 0#8, 0#8, 0#8]⟩ = some .cmdStatus := by decide
theorem test_decode_cmdStart :
    decodedOf ⟨.cmd, [0b01#8, 0x00#8, 0x8C#8, 0x0A#8, 0x00#8]⟩ = some (.cmdStart 691200#32) := by decide
theorem test_decode_cmdRdpix :
    decodedOf ⟨.cmd, [0b10#8, 0xCF#8, 0x02#8, 0xDF#8, 0x01#8]⟩ = some (.cmdRdpix 719#10 479#9) := by decide
theorem test_decode_cmdReserved : decodedOf ⟨.cmd, [0b11#8, 0#8, 0#8, 0#8, 0#8]⟩ = some .cmdReserved := by decide
theorem test_decode_cmdDone : decodedOf ⟨.done, []⟩ = some .cmdDone := by decide
-- PIX variants (R54)
theorem test_decode_pixEE : decodedOf ⟨.pix, [0b00#8, 0xCE#8, 0x02#8, 0#8, 0#8]⟩ = some (.pixEE 718#10 0#9) := by decide
theorem test_decode_pixEO : decodedOf ⟨.pix, [0b01#8, 1#8, 0#8, 0#8, 0#8]⟩ = some (.pixEO 1#10 0#9) := by decide
theorem test_decode_pixOE : decodedOf ⟨.pix, [0b10#8, 0#8, 0#8, 1#8, 0#8]⟩ = some (.pixOE 0#10 1#9) := by decide
theorem test_decode_pixOO : decodedOf ⟨.pix, [0b11#8, 0xCF#8, 0x02#8, 0xDF#8, 0x01#8]⟩ = some (.pixOO 719#10 479#9) := by
  decide
-- composites (R63)
theorem test_decode_extract :
    decodedOf ⟨.extract, [1#8, 0xFC#8, 0x8B#8, 0x0A#8, 0x00#8]⟩ = some (.extract 691196#32 1#1) := by decide
theorem test_decode_convert : decodedOf ⟨.convert, [0xD1#8, 0xDA#8, 0x70#8]⟩ = some (.convert 0xD1#8 0xDA#8 0x70#8) := by
  decide
theorem test_decode_normalize : decodedOf ⟨.normalize, [255#8]⟩ = some (.normalize 255#8) := by decide
theorem test_decode_decodeFrame :
    decodedOf ⟨.decode, [0x00#8, 0x8C#8, 0x0A#8, 0x00#8]⟩ = some (.decodeFrame 691200#32) := by decide
-- refused words
theorem test_decode_sel_padding : errorOf ⟨.row, [0b100#8]⟩ = some .paddingNotZero := by decide
theorem test_decode_short : errorOf ⟨.split, [0#8]⟩ = some .wrongLength := by decide
theorem test_decode_pix_selector : errorOf ⟨.pix, [0b00#8, 0#8, 0#8, 1#8, 0#8]⟩ = some .selectorMismatch := by decide
theorem test_decode_pix_position :
    errorOf ⟨.pix, [0b00#8, 0xD0#8, 0x02#8, 0#8, 0#8]⟩ = some .positionOutOfRange := by decide
-- words as the opcode table numbers their bits
theorem test_tableWord_start : decodeTableWord 8 0b01 = some (.cmdStart 0#32) := by decide
theorem test_tableWord_split : decodeTableWord 32 0x5A51F091 = some (.bxSplit 0x5A51F091#32) := by decide
theorem test_tableWord_store : decodeTableWord 24 0xED1E03 = some (.rdStore 237#8 30#8 3#8) := by decide
theorem test_tableWord_done : decodeTableWord 0 0 = some .cmdDone := by decide
theorem test_fetch_word_runs :
    (nextOf (step (State.reset.withFetchWord 32 0x01020304))).map (·.lat.y2) = some 4#8 := by decide

/-! ## Raster Decoder: table RD -/

theorem test_rowP0_last : (nextOf (exec (.rdRowP0 0#1) (atPos 0 478))).map (fun t => (t.lat.rowIdx, t.lat.base)) =
    some (239, 344160) := by decide
theorem test_rowP1_first : (nextOf (exec (.rdRowP1 0#1) (atPos 0 1))).map (fun t => (t.lat.rowIdx, t.lat.base)) =
    some (0, 345600) := by decide
theorem test_rowP1_last : (nextOf (exec (.rdRowP1 1#1) (atPos 719 479))).map (fun t => (t.lat.rowIdx, t.lat.base)) =
    some (239, 689760) := by decide
theorem test_colE_last : (nextOf (exec (.rdColE 0#1) (atPos 718 0))).map (fun t => (t.lat.pairOff, t.lat.par)) =
    some (1436, 0#1) := by decide
theorem test_colO : (nextOf (exec (.rdColO 1#1) (atPos 5 3))).map (fun t => (t.lat.pairOff, t.lat.par)) =
    some (8, 1#1) := by decide
theorem test_offs : (nextOf (exec (.rdOffs 3#2)
    { frameState with lat := { Latches.zero with base := 347040, pairOff := 8 } })).map (·.lat.offset) =
    some 347048 := by decide
theorem test_store : (nextOf (exec (.rdStore 237#8 30#8 3#8) (atPos 0 1))).map (·.cell 0 1) =
    some (some ⟨237#8, 30#8, 3#8⟩) := by decide
theorem test_store_outside : faultOf (exec (.rdStore 0#8 0#8 0#8) (atPos 720 0)) = some .rasterOutOfRange := by decide
theorem test_next_takes_the_chosen : (nextOf (exec .rdNext
    { busyState [⟨1, 1⟩, ⟨0, 1⟩, ⟨0, 0⟩] with choices := [1] })).map (fun t => (t.cell 0 1, t.pend)) =
    some (some ⟨237#8, 30#8, 3#8⟩, [⟨1, 1⟩, ⟨0, 0⟩]) := by decide +kernel
theorem test_next_not_busy : refusalOf (exec .rdNext frameState) = some .notEnabled := by decide

/-! ## Byte Extractor: table BX -/

theorem test_chk_last_word : (nextOf (exec (.bxChk 0#2) (atOffset 691196))).map (·.status) = some .idle := by decide
theorem test_chk_beyond : (nextOf (exec (.bxChk 0#2) (atOffset 691197))).map (fun t => (t.status, t.errcode)) =
    some (.error, .internal) := by decide
theorem test_fetch : (nextOf (exec (.bxFetch 2#2) (atOffset 345600))).map (·.lat.word) = some 0x5A51F091#32 := by decide
theorem test_fetch_beyond : faultOf (exec (.bxFetch 2#2) (atOffset 691197)) = some .sourceOutOfRange := by decide
theorem test_split : (nextOf (exec (.bxSplit 0x5A51F091#32) frameState)).map
    (fun t => (t.lat.u, t.lat.y1, t.lat.v, t.lat.y2)) = some (90#8, 81#8, 240#8, 145#8) := by decide
theorem test_lselE : (nextOf (exec (.bxLselE 0#1)
    { frameState with lat := { Latches.zero with y1 := 81#8, y2 := 145#8 } })).map (·.lat.luma) = some 81#8 := by decide
theorem test_lselO : (nextOf (exec (.bxLselO 1#1)
    { frameState with lat := { Latches.zero with y1 := 81#8, y2 := 145#8 } })).map (·.lat.luma) = some 145#8 := by decide
theorem test_center : (nextOf (exec (.bxCenter 0#2)
    { frameState with lat := { Latches.zero with luma := 81#8, u := 90#8, v := 240#8 } })).map
    (fun t => (t.lat.yc, t.lat.uc, t.lat.vc)) = some (-47, -38, 112) := by decide
theorem test_extract_odd : (nextOf (exec (.extract 345600#32 1#1) (atOffset 0))).map (·.reply) =
    some (.yuv 17 (-38) 112) := by decide +kernel
theorem test_extract_beyond : (nextOf (exec (.extract 691198#32 0#1) (atOffset 0))).map (fun t => (t.reply, t.errcode)) =
    some (.error .internal, .internal) := by decide +kernel
-- in ERROR no operation that can raise is enabled (R140)
theorem test_error_not_enabled :
    refusalOf (exec (.bxChk 0#2) { atOffset 691197 with status := .error, errcode := .length }) = some .notEnabled ∧
    refusalOf (exec (.extract 691198#32 0#1) { atOffset 0 with status := .error }) = some .notEnabled ∧
    refusalOf (exec (.pixEE 0#10 0#9) { sparseState with status := .error }) = some .notEnabled := by decide
theorem test_normalize : (nextOf (exec (.normalize 0#8) frameState)).map (·.reply) = some (.sample (-128)) := by
  decide +kernel

/-! ## Colourspace conversion: the examples of R81 to R86, table CSC -/

/-- The centred sample (-47, -38, 112), its combinations and their shifted values. -/
def cscState : State :=
  { frameState with lat := { Latches.zero with
      yc := -47, uc := -38, vc := 112, r := 1096096 / 10000, g := -970305 / 10000, b := -12422018 / 100000,
      rs := 3055841 / 10000, gs := 542638 / 10000, bs := -1 / 2, rk := 2376096 / 10000, gk := 309695 / 10000,
      bk := 377982 / 100000 } }

theorem test_cscR : (nextOf (exec (.cscR 0#2) cscState)).map (·.lat.r) = some (1096096 / 10000) := by decide +kernel
theorem test_cscG : (nextOf (exec (.cscG 0#2) cscState)).map (·.lat.g) = some (-970305 / 10000) := by decide +kernel
theorem test_cscB : (nextOf (exec (.cscB 0#2) cscState)).map (·.lat.b) = some (-12422018 / 100000) := by decide +kernel
theorem test_cscBias : (nextOf (exec (.cscBias 0#2) cscState)).map (fun t => (t.lat.rs, t.lat.gs, t.lat.bs)) =
    some (2376096 / 10000, 309695 / 10000, 377982 / 100000) := by decide +kernel
theorem test_cscClamp : (nextOf (exec (.cscClamp 0#2) cscState)).map (fun t => (t.lat.rk, t.lat.gk, t.lat.bk)) =
    some (255, 542638 / 10000, 0) := by decide +kernel
theorem test_cscTrunc : (nextOf (exec (.cscTrunc 0#2) cscState)).map (fun t => (t.lat.pr, t.lat.pg, t.lat.pb)) =
    some (237#8, 30#8, 3#8) := by decide +kernel
theorem test_convert_integer_green : (nextOf (exec (.convert (-72#8) 60#8 35#8) frameState)).map (·.reply) =
    some (.pixel ⟨104#8, 12#8, 177#8⟩) := by decide +kernel
theorem test_convert_zero_bytes : (nextOf (exec (.convert (-128#8) (-128#8) (-128#8)) frameState)).map (·.reply) =
    some (.pixel ⟨0#8, 124#8, 0#8⟩) := by decide +kernel

/-! ## One pixel: program P3 -/

theorem test_pixEE : (nextOf (exec (.pixEE 0#10 0#9) sparseState)).map (·.cell 0 0) =
    some (some ⟨255#8, 255#8, 255#8⟩) := by decide +kernel
theorem test_pixEO : (nextOf (exec (.pixEO 1#10 0#9) sparseState)).map (·.cell 1 0) =
    some (some ⟨0#8, 0#8, 0#8⟩) := by decide +kernel
theorem test_pixOE : (nextOf (exec (.pixOE 718#10 479#9) sparseState)).map (·.cell 718 479) =
    some (some ⟨0#8, 124#8, 0#8⟩) := by decide +kernel
theorem test_pixOO : (nextOf (exec (.pixOO 719#10 479#9) sparseState)).map (·.cell 719 479) =
    some (some ⟨68#8, 255#8, 49#8⟩) := by decide +kernel

/-! ## Host commands: table CMD, program P5 -/

theorem test_start_long : (nextOf (exec (.cmdStart 691201#32) State.reset)).map
    (fun t => (t.status, t.errcode, t.len)) = some (.error, .length, 691201#32) := by decide
theorem test_start_small : (nextOf (exec (.cmdStart 32#32) smallState)).map
    (fun t => (t.status, t.errcode, t.pend.length)) = some (.busy, .none, 16) := by decide +kernel
theorem test_start_odd_width : refusalOf (exec (.cmdStart 24#32) { smallState with cfgW := 3#10 }) =
    some .unsupportedDimensions := by decide
theorem test_done : (nextOf (exec .cmdDone (busyState []))).map (·.status) = some .done := by decide
theorem test_done_pending : refusalOf (exec .cmdDone (busyState [⟨0, 0⟩])) = some .notEnabled := by decide
theorem test_status : (nextOf (exec .cmdStatus { State.reset with status := .error, errcode := .length })).map
    (·.reply) = some (.status .error .length) := by decide +kernel
theorem test_rdpix : (nextOf (exec (.cmdRdpix 719#10 479#9)
    { frameState with status := .done, raster := [(345599, ⟨1#8, 2#8, 3#8⟩)] })).map (·.reply) =
    some (.pixel ⟨1#8, 2#8, 3#8⟩) := by decide +kernel
theorem test_rdpix_out_of_range : refusalOf (exec (.cmdRdpix 0#10 480#9) frameState) = some .rdpixOutOfRange := by decide
theorem test_reserved : refusalOf (exec .cmdReserved frameState) = some .reservedEvent := by decide
theorem test_decode_small_frame : (nextOf (exec (.decodeFrame 32#32) smallState)).map (·.reply) = some (.raster
    [⟨16, 16, 16⟩, ⟨235, 235, 235⟩, ⟨237, 30, 3⟩, ⟨255, 94, 67⟩,
     ⟨0, 124, 0⟩, ⟨0, 124, 0⟩, ⟨255, 131, 255⟩, ⟨255, 131, 255⟩,
     ⟨0, 124, 0⟩, ⟨68, 255, 49⟩, ⟨148, 56, 221⟩, ⟨92, 0, 165⟩,
     ⟨0, 0, 0⟩, ⟨255, 255, 255⟩, ⟨15, 7, 255⟩, ⟨51, 43, 255⟩]) := by decide +kernel
theorem test_decode_short_frame : (nextOf (exec (.decodeFrame 31#32) smallState)).map (fun t => (t.reply, t.status)) =
    some (.error .length, .error) := by decide +kernel

/-! ## The port -/

theorem test_fill_then_read : (nextOf (step { State.reset with port := [.fill 5 [1#8, 2#8]] })).map (·.buf) =
    some [(5, 1#8), (6, 2#8)] := by decide
theorem test_wait_ends : (nextOf (step { State.reset with port := [.wait] })).map (·.reply) =
    some (.status .idle .none) := by decide +kernel

/-! ## Witnesses: for every statement with hypotheses, states and operands that meet them, one for each clause and at
the ends of its range -/

/-- A state with these events at the port. -/
def portState (s : State) (port : List Event) : State := { s with port := port }

/-- A decode just begun; with `allPositions 720 480`, the state a successful CMD.START leaves. -/
def begunState (pend : List Pos) : State := { frameState with status := .busy, pend := pend }

/-- A failed decode, its host about to reset or to start again. -/
def failedState (port : List Event) : State :=
  { State.reset with status := .error, errcode := .length, len := 5#32, port := port }

-- DecodeOfEncodeIsTheInstruction: the last position
theorem test_witness_encode : Instr.wellFormed (.pixOO 719#10 479#9) = true ∧ Instr.wellFormed (.cmdStart 0#32) = true := by
  decide

-- DecodedWordIsWellFormedAndUnique, both clauses
theorem test_witness_unique : decodedOf ⟨.cmd, [2#8, 0xCF#8, 0x02#8, 0xDF#8, 0x01#8]⟩ = some (.cmdRdpix 719#10 479#9) ∧
    Instr.cmdRdpix 719#10 479#9 ≠ .rdNext ∧ Instr.cmdRdpix 719#10 479#9 ≠ .cmdReserved := by decide

-- RowsPartitionTheirSelector: the last value
theorem test_witness_rows : Slot.lsel ∈ [Slot.pix, .cmd, .row, .col, .lsel] ∧ 3 < 4 := by decide

-- StepRunsTheDecodedOperation: a word that decodes, one that does not, operands
theorem test_witness_step :
    (portState frameState [.op ⟨.cmd, [0#8, 0#8, 0#8, 0#8, 0#8]⟩]).port = .op ⟨.cmd, [0#8, 0#8, 0#8, 0#8, 0#8]⟩ :: [] ∧
    decodedOf ⟨.cmd, [0#8, 0#8, 0#8, 0#8, 0#8]⟩ = some .cmdStatus ∧
    (portState frameState [.op ⟨.cmd, []⟩]).port = .op ⟨.cmd, []⟩ :: [] ∧ errorOf ⟨.cmd, []⟩ = some .wrongLength ∧
    (portState frameState [.operands Latches.zero]).port = .operands Latches.zero :: [] :=
  ⟨rfl, rfl, rfl, rfl, rfl⟩

-- DecoderTakesItsEnabledStep and WaitEndsWithTheStatus: each clause
theorem test_witness_decoder_next : (busyState [⟨0, 0⟩]).port = [] ∧ (busyState [⟨0, 0⟩]).status = .busy ∧
    (busyState [⟨0, 0⟩]).pend ≠ [] := by decide
theorem test_witness_decoder_done : (busyState []).port = [] ∧ (busyState []).status = .busy ∧
    (busyState []).pend = [] := by decide
theorem test_witness_decoder_idle : State.reset.port = [] ∧ State.reset.status ≠ .busy := by decide
theorem test_witness_turn (e : Event) : (portState (busyState [⟨0, 0⟩]) [e]).port = e :: [] ∧
    (portState (busyState [⟨0, 0⟩]) [e]).status = .busy ∧ (portState (busyState [⟨0, 0⟩]) [e]).pend ≠ [] :=
  ⟨rfl, rfl, by simp [portState, busyState]⟩
theorem test_witness_turn_done (e : Event) : (portState (busyState []) [e]).port = e :: [] ∧
    (portState (busyState []) [e]).status = .busy ∧ (portState (busyState []) [e]).pend = [] := ⟨rfl, rfl, rfl⟩
theorem test_witness_turn_idle (e : Event) : (portState State.reset [e]).port = e :: [] ∧
    (portState State.reset [e]).status ≠ .busy := ⟨rfl, by simp [portState, State.reset]⟩

-- HostFillWritesItsBytes: the last byte of the source space, and one beyond; test_witness_turn has the BUSY clause
theorem test_witness_fill : (portState State.reset [.fill 4294967295 [7#8]]).port = .fill 4294967295 [7#8] :: [] ∧
    State.reset.status ≠ .busy ∧ 4294967295 + [7#8].length ≤ 2 ^ 32 ∧ [7#8][0]? = some 7#8 ∧
    2 ^ 32 < 4294967296 + [7#8].length := ⟨rfl, by decide, by decide, rfl, by decide⟩

-- ResetFromAnyState: test_witness_turn with `.reset`, while BUSY
theorem test_witness_reset : (portState (busyState [⟨0, 0⟩]) [.reset]).port = .reset :: [] := rfl

-- Rows and columns: the last even and odd ones, and 0 for ParityOperationsCompleteOutsideTheirRange
theorem test_witness_even_row : (atPos 0 478).lat.y % 2 = 0 := by decide
theorem test_witness_odd_row : (atPos 0 479).lat.y % 2 = 1 := by decide
theorem test_witness_even_column : (atPos 718 0).lat.x % 2 = 0 := by decide
theorem test_witness_odd_column : (atPos 719 0).lat.x % 2 = 1 := by decide
theorem test_witness_row_and_column_zero : (atPos 0 0).lat.y % 2 = 0 ∧ (atPos 0 0).lat.x % 2 = 0 ∧
    (atPos 2 2).lat.y % 2 = 0 ∧ (atPos 2 2).lat.y ≠ 0 ∧ (atPos 2 2).lat.x % 2 = 0 ∧ (atPos 2 2).lat.x ≠ 0 := by decide

-- LumaIsSelectedByParity, ParityOperationsCompleteOutsideTheirRange: each parity
theorem test_witness_parity : (atPos 0 0).lat.par = 0#1 ∧
    ({ frameState with lat := { Latches.zero with par := 1#1 } } : State).lat.par = 1#1 := by decide

-- StoreWritesTheCellOfItsPosition: the last cell; OperationsRunAloneOutsideTheirRules: one column beyond
theorem test_witness_store : (atPos 719 479).lat.x < (atPos 719 479).cfgW.toNat ∧
    (atPos 719 479).lat.y < (atPos 719 479).cfgH.toNat ∧
    ¬ ((atPos 720 479).lat.x < (atPos 720 479).cfgW.toNat ∧ (atPos 720 479).lat.y < (atPos 720 479).cfgH.toNat) := by
  decide

-- NextRunsPixOnAPendingPosition, NextCanTakeAnyPendingPosition: the first and the last position pending
theorem test_witness_next : (busyState [⟨0, 0⟩, ⟨719, 479⟩]).status = .busy ∧ (busyState [⟨0, 0⟩, ⟨719, 479⟩]).pend ≠ [] ∧
    ∀ p ∈ (busyState [⟨0, 0⟩, ⟨719, 479⟩]).pend,
      p.x < (busyState [⟨0, 0⟩, ⟨719, 479⟩]).cfgW.toNat ∧ p.y < (busyState [⟨0, 0⟩, ⟨719, 479⟩]).cfgH.toNat ∧
      closedOffset (busyState [⟨0, 0⟩, ⟨719, 479⟩]).cfgW.toNat (busyState [⟨0, 0⟩, ⟨719, 479⟩]).cfgH.toNat p.x p.y + 4 ≤
        (busyState [⟨0, 0⟩, ⟨719, 479⟩]).len.toNat := by decide

-- OperationsRunAloneOutsideTheirRules: not BUSY, nothing pending, something pending
theorem test_witness_next_disabled : State.reset.status ≠ .busy ∧ (busyState []).pend = [] ∧
    (busyState [⟨0, 0⟩]).pend ≠ [] := by decide

-- NextWithoutFreeChoicesIsRowMajor: no free choice left and the last position first; not BUSY; the last cell
theorem test_witness_next_first : (busyState [⟨719, 479⟩, ⟨0, 0⟩]).status = .busy ∧
    (busyState [⟨719, 479⟩, ⟨0, 0⟩]).choices = [] ∧
    (busyState [⟨719, 479⟩, ⟨0, 0⟩]).pend = ⟨719, 479⟩ :: [⟨0, 0⟩] ∧
    719 < (busyState [⟨719, 479⟩, ⟨0, 0⟩]).cfgW.toNat ∧ 479 < (busyState [⟨719, 479⟩, ⟨0, 0⟩]).cfgH.toNat ∧
    closedOffset (busyState []).cfgW.toNat (busyState []).cfgH.toNat 719 479 + 4 ≤ (busyState []).len.toNat := by decide
theorem test_witness_last_cell : State.reset.Hardwired ∧ State.reset.status ≠ .busy ∧ 719 < 720 ∧ 479 < 480 :=
  ⟨⟨rfl, rfl⟩, by decide, by decide, by decide⟩

-- BoundsTestPassesOrRaises, FetchReadsTheWordBigEndian, OperationsRunAloneOutsideTheirRules: the last word, and one
-- byte beyond, in IDLE, DONE and BUSY
theorem test_witness_bounds : (atOffset 691196).status ≠ .error ∧ (atOffset 691196).lat.offset + 4 ≤ (atOffset 691196).len.toNat ∧
    (atOffset 691197).len.toNat < (atOffset 691197).lat.offset + 4 ∧ (atOffset 691197).status = .idle ∧
    ({ atOffset 691197 with status := .done } : State).status = .done ∧
    ({ atOffset 691197 with status := .busy } : State).status = .busy := by decide

-- ExtractReturnsTheCentredSamples: the same
theorem test_witness_extract : frameState.status ≠ .error ∧ (691196#32).toNat + 4 ≤ frameState.len.toNat ∧
    frameState.len.toNat < (691197#32).toNat + 4 := by decide

-- NormalizeIsABijection: the ends of the range
theorem test_witness_normalize : (-128 : Int) ≤ -128 ∧ (-128 : Int) ≤ 127 ∧ (-128 : Int) ≤ 127 ∧ (127 : Int) ≤ 127 ∧
    (nextOf (exec (.normalize 255#8) frameState)).map (·.reply) = some (.sample 127) := by decide +kernel

-- ClampSaturatesEachChannel, TruncationTakesTheIntegerPart: below, above, and the ends
theorem test_witness_clamp : cscState.lat.bs < 0 ∧ 255 < cscState.lat.rs ∧ 0 ≤ cscState.lat.gs ∧ cscState.lat.gs ≤ 255 := by
  decide +kernel
/-- The ends of the range of a channel. -/
def edgeState : State :=
  { frameState with lat := { Latches.zero with rs := 0, gs := 255, bs := 255, rk := 0, gk := 255, bk := 1 / 2 } }
theorem test_witness_clamp_ends : 0 ≤ edgeState.lat.rs ∧ edgeState.lat.rs ≤ 255 ∧ 0 ≤ edgeState.lat.gs ∧
    edgeState.lat.gs ≤ 255 := by decide +kernel
theorem test_witness_trunc : ∀ q ∈ [edgeState.lat.rk, edgeState.lat.gk, edgeState.lat.bk], 0 ≤ q ∧ q ≤ 255 := by
  decide +kernel

-- ConversionIsMonotone: two conversions that complete, ordered in each argument
theorem test_witness_monotone :
    (nextOf (exec (.convert (-128#8) 0#8 0#8) frameState)).map (·.reply) = some (.pixel ⟨0, 0, 0⟩) ∧
    (nextOf (exec (.convert 127#8 0#8 0#8) frameState)).map (·.reply) = some (.pixel ⟨255, 255, 255⟩) ∧
    (-128#8 : BitVec 8).toInt ≤ (127#8 : BitVec 8).toInt ∧ (0#8 : BitVec 8).toInt ≤ (0#8 : BitVec 8).toInt := by
  decide +kernel

-- PixStoresTheClosedFormPixel, PixEqualsItsFifteenOperations: the last position, LEN exactly reached
theorem test_witness_pix : frameState.status ≠ .error ∧ (719#10).toNat < frameState.cfgW.toNat ∧ (479#9).toNat < frameState.cfgH.toNat ∧
    closedOffset frameState.cfgW.toNat frameState.cfgH.toNat (719#10).toNat (479#9).toNat + 4 ≤ frameState.len.toNat := by
  decide

-- PixOutOfBoundsRaisesErrInternal: LEN one byte short, and that position drawn among several
/-- A decode with one byte too few, about to draw the last of three positions. -/
def shortState : State := { busyState [⟨0, 0⟩, ⟨718, 478⟩, ⟨719, 479⟩] with len := 691199#32, choices := [2, 1] }
theorem test_witness_pix_beyond : shortState.status ≠ .error ∧
    shortState.len.toNat <
      closedOffset shortState.cfgW.toNat shortState.cfgH.toNat (719#10).toNat (479#9).toNat + 4 ∧
    shortState.status = .busy ∧
    shortState.pend[shortState.choiceIndex]? = some ⟨(719#10).toNat, (479#9).toNat⟩ := by decide
theorem test_next_out_of_bounds : (nextOf (exec .rdNext shortState)).map
    (fun t => (t.status, t.errcode, t.pend, t.choices)) = some (.error, .internal, [], [1]) := by
  decide +kernel

-- PixOperationsOfDifferentPixelsCommute: the two pixels of the last pair
theorem test_witness_commute : (719#10, 479#9) ≠ (718#10, 479#9) ∧ frameState.status ≠ .error ∧
    Raster.wf frameState.raster = true ∧
    (719#10).toNat < frameState.cfgW.toNat ∧ (718#10).toNat < frameState.cfgW.toNat ∧
    (479#9).toNat < frameState.cfgH.toNat ∧
    closedOffset frameState.cfgW.toNat frameState.cfgH.toNat (719#10).toNat (479#9).toNat + 4 ≤ frameState.len.toNat ∧
    closedOffset frameState.cfgW.toNat frameState.cfgH.toNat (718#10).toNat (479#9).toNat + 4 ≤ frameState.len.toNat := by
  decide

-- OffsetsLieInThePlaneOfTheirRow: the last column of the last even and the last odd row
theorem test_witness_offsets : frameState.Hardwired ∧ 719 < 720 ∧ 479 < 480 ∧ 478 % 2 = 0 ∧ 479 % 2 = 1 :=
  ⟨⟨rfl, rfl⟩, by decide, by decide, by decide, by decide⟩

-- IndexFunctionIsABijection: the last position, the last word and parity, the first, and the last of plane 0
theorem test_witness_index : 719 < 720 ∧ 479 < 480 ∧ 691196 % 4 = 0 ∧ 691196 ≤ 691196 ∧ 1 < 2 ∧ 0 % 4 = 0 ∧ 345596 % 4 = 0 ∧
    closedOffset 720 480 719 479 = 691196 ∧ 719 % 2 = 1 ∧ closedOffset 720 480 718 478 = 345596 := by decide

-- PixelsOfAPairShareTheirChroma: the last pair
theorem test_witness_pair : frameState.status ≠ .error ∧ (718#10).toNat % 2 = 0 ∧ (719#10).toNat = (718#10).toNat + 1 ∧
    (719#10).toNat < frameState.cfgW.toNat ∧ (479#9).toNat < frameState.cfgH.toNat ∧
    closedOffset frameState.cfgW.toNat frameState.cfgH.toNat (718#10).toNat (479#9).toNat + 4 ≤ frameState.len.toNat := by
  decide

-- RasterByteViewHoldsTheChannels, ReadPixelReturnsTheCellAtDone: the last cell; a read outside DONE, of an empty cell,
-- and one column and one row beyond
theorem test_witness_cell : 719 < frameState.cfgW.toNat ∧ 479 < frameState.cfgH.toNat ∧
    ({ frameState with status := .done, raster := [(345599, ⟨1#8, 2#8, 3#8⟩)] } : State).status = .done ∧
    ({ frameState with status := .done, raster := [(345599, ⟨1#8, 2#8, 3#8⟩)] } : State).cell 719 479 =
      some ⟨1#8, 2#8, 3#8⟩ := by decide
theorem test_witness_rdpix : frameState.status ≠ .done ∧ ({ frameState with status := .done } : State).cell 0 0 = none ∧
    (719#10).toNat < frameState.cfgW.toNat ∧ (479#9).toNat < frameState.cfgH.toNat ∧
    ¬ ((720#10).toNat < frameState.cfgW.toNat ∧ (0#9).toNat < frameState.cfgH.toNat) ∧
    ¬ ((0#10).toNat < frameState.cfgW.toNat ∧ (480#9).toNat < frameState.cfgH.toNat) := by decide

-- StartChecksTheLength and the other statements on CMD.START and DECODE: hardwired, not BUSY; a length one short; a different earlier decode; BUSY
theorem test_witness_start : State.reset.Hardwired ∧ State.reset.status ≠ .busy ∧ 691199#32 ≠ 691200#32 ∧
    (busyState []).status = .busy := ⟨⟨rfl, rfl⟩, by decide, by decide, rfl⟩
theorem test_witness_forget : State.reset.status ≠ .busy ∧ (failedState []).status ≠ .busy ∧
    failedState [] = { State.reset with
      len := (failedState []).len, status := (failedState []).status, errcode := (failedState []).errcode,
      raster := (failedState []).raster, pend := (failedState []).pend } := ⟨by decide, by decide, rfl⟩

-- DoneEndsTheDecodeWhenNothingIsPending
theorem test_witness_done : (busyState []).status = .busy ∧ (busyState []).pend = [] := by decide

-- EveryOperationWritesOnlyItsOwnState: an operation outside every list completes
theorem test_witness_frame : (nextOf (exec (.cmdStatus) frameState)).isSome = true ∧ writesLen .cmdStatus = false ∧
    writesRaster .cmdStatus = false ∧ writesLat .cmdStatus = false ∧ writesControl .cmdStatus = false ∧
    returns .cmdDone = false ∧ (nextOf (exec .cmdDone (busyState []))).isSome = true := ⟨rfl, rfl, rfl, rfl, rfl, rfl, rfl⟩

-- EveryStepKeepsTheInvariant: a decode just begun, everything pending, which can step
theorem begunState_inv (pend : List Pos) (hm : ∀ p : Pos, p ∈ pend ↔ p.x < 720 ∧ p.y < 480) (hn : pend.Nodup) :
    (begunState pend).Inv where
  hardwired := ⟨rfl, rfl⟩
  bufWf := rfl
  rasterWf := rfl
  rasterIn := fun _ _ h => by cases h
  pendIn := fun p h => (hm p).1 h
  pendNodup := hn
  pendBusy := fun h => absurd rfl h
  busyLen := fun _ => rfl
  busyCells := fun _ x y hx hy => by
    have h : (⟨x, y⟩ : Pos) ∈ (begunState pend).pend := (hm ⟨x, y⟩).2 ⟨hx, hy⟩
    rw [if_pos h]
    unfold State.cell
    split <;> rfl
  doneCells := fun h => by cases h
  otherCells := fun h => by rcases h with h | h <;> cases h
  errStatus := ⟨fun _ h => (by cases h), fun _ => rfl⟩
  noInternal := fun h => by cases h
  hostOnly := rfl
theorem test_witness_invariant : (begunState (allPositions 720 480)).Inv :=
  begunState_inv _ (mem_allPositions 720 480) (allPositions_nodup 720 480)

-- the same of a decode with one position left, which RD.NEXT then finishes; a failed one is reset
theorem test_witness_steps : (nextOf (step (busyState [⟨719, 479⟩]))).map (·.pend) = some [] ∧
    (nextOf (step (failedState [.reset]))).map (·.status) = some .idle := by decide +kernel

-- ErrorIsLeftOnlyByStartOrReset: left by reset, and by CMD.START
theorem test_witness_error_left : (failedState [.reset]).port.all Event.fromHost = true ∧
    (failedState [.reset]).status = .error ∧
    (nextOf (step (failedState [.reset]))).map (·.status) = some .idle := by decide
theorem test_witness_error_started :
    (failedState [.op ⟨.cmd, [1#8, 0x00#8, 0x8C#8, 0x0A#8, 0x00#8]⟩]).port.all Event.fromHost = true ∧
    (failedState [.op ⟨.cmd, [1#8, 0x00#8, 0x8C#8, 0x0A#8, 0x00#8]⟩]).status = .error ∧
    (nextOf (step (failedState [.op ⟨.cmd, [1#8, 0x00#8, 0x8C#8, 0x0A#8, 0x00#8]⟩]))).map (·.status) = some .busy := by
  decide

-- DecodeEndsAfterOneStepPerPixelAndDone
theorem begunState_meets (pend : List Pos) (hn : pend.Nodup) (hm : ∀ p : Pos, p ∈ pend ↔ p.x < 720 ∧ p.y < 480) :
    (begunState pend).Hardwired ∧ (begunState pend).status = .busy ∧
    (begunState pend).len = 691200#32 ∧ (begunState pend).port = [] ∧ (begunState pend).raster = [] ∧
    (begunState pend).pend.Nodup ∧ (∀ p : Pos, p ∈ (begunState pend).pend ↔ p.x < 720 ∧ p.y < 480) :=
  ⟨⟨rfl, rfl⟩, rfl, rfl, rfl, rfl, hn, hm⟩
theorem test_witness_termination : (begunState (allPositions 720 480)).Hardwired ∧
    (begunState (allPositions 720 480)).status = .busy ∧ (begunState (allPositions 720 480)).len = 691200#32 ∧
    (begunState (allPositions 720 480)).port = [] ∧ (begunState (allPositions 720 480)).raster = [] ∧
    (begunState (allPositions 720 480)).pend.Nodup ∧
    (∀ p : Pos, p ∈ (begunState (allPositions 720 480)).pend ↔ p.x < 720 ∧ p.y < 480) :=
  begunState_meets _ (allPositions_nodup 720 480) (mem_allPositions 720 480)

-- ErrorsDoNotNest: a failed decode, in which an operation other than CMD.START and DECODE completes; a length one short
theorem test_witness_nesting : (failedState []).status = .error ∧ (failedState []).Hardwired ∧ 691199#32 ≠ 691200#32 ∧
    (∀ n, Instr.cmdStatus ≠ .cmdStart n ∧ Instr.cmdStatus ≠ .decodeFrame n) ∧
    (nextOf (exec .cmdStatus (failedState []))).isSome = true :=
  ⟨rfl, ⟨rfl, rfl⟩, by decide, fun _ => ⟨nofun, nofun⟩, rfl⟩

end Sys2Proof.Tests
end

section
/-! The step rules of an operation and of operands at the head of the port (log 8), and the statement about them (O5). -/

namespace Sys2Proof.Machine

variable {s : State} {rest : List Event}

/-- The step rule of an operation word that decodes. -/
theorem step_op_of_decode_ok {w : OpWord} {i : Instr} (hport : s.port = .op w :: rest) (hdec : decode w = .ok i) :
    step s = exec i { s with port := rest } := by
  simp only [step, hport, hdec]

/-- The step rule of an operation word that does not decode; the refusal carries the decoder's own error. -/
theorem step_op_of_decode_error {w : OpWord} {e : DecodeError} (hport : s.port = .op w :: rest)
    (hdec : decode w = .error e) : step s = .refused (.undecodable e) := by
  simp only [step, hport, hdec]

/-- The step rule of presented operands (log 3). -/
theorem step_operands {l : Latches} (hport : s.port = .operands l :: rest) :
    step s = .next { s with port := rest, lat := l } := by
  simp only [step, hport]

end Sys2Proof.Machine

namespace Sys2Proof.Proofs

open Sys2Proof.Machine

/-- Settles O5, from the step rule of each of its three cases. -/
theorem stepRunsTheDecodedOperation : Obligations.StepRunsTheDecodedOperation := by
  intro s rest
  refine ⟨fun w hport => ⟨fun i hdec => ?decodes, fun e hdec => ?undecodable⟩, fun l hport => ?operands⟩
  case decodes => exact step_op_of_decode_ok hport hdec
  case undecodable => exact step_op_of_decode_error hport hdec
  case operands => exact step_operands hport

end Sys2Proof.Proofs
end

section
/-! The state after reset and the codes of the status registers (spec/10_state.md R14, R15, R25), and the statements
about them (O10, O11, O56). -/

namespace Sys2Proof.Machine

variable {s : State}

/-- RASTER_VALID is no register of its own (R14). -/
@[simp] theorem rasterValid_iff : s.rasterValid = true ↔ s.status = .done := by
  simp [State.rasterValid]

/-- An emptied raster has no value at any position (R16). -/
theorem cell_eq_none_of_raster_nil (h : s.raster = []) (x y : Nat) : s.cell x y = none := by
  simp [State.cell, h, assocRead]

/-- The reserved code 0b11 is never produced (R15). -/
theorem errCode_code_ne_reserved (e : ErrCode) : e.code ≠ 0b11#2 := by
  cases e <;> decide

/-- Nothing is listed, pending or at the port, and ST is IDLE: of the clauses on a decode only the empty raster and
ERRCODE NONE remain. -/
theorem inv_reset : State.reset.Inv where
  hardwired := ⟨rfl, rfl⟩
  bufWf := Memory.wf_reset
  rasterWf := Raster.wf_empty
  rasterIn := nofun
  pendIn := nofun
  pendNodup := .nil
  pendBusy := fun _ => rfl
  busyLen := nofun
  busyCells := nofun
  doneCells := nofun
  otherCells := fun _ => rfl
  errStatus := ⟨fun _ => nofun, fun _ => rfl⟩
  noInternal := nofun
  hostOnly := rfl

end Sys2Proof.Machine

namespace Sys2Proof.Proofs

open Sys2Proof.Machine

/-- Settles O10: the reset state is a literal, and its raster is empty. -/
theorem resetStateHoldsTheResetValues : Obligations.ResetStateHoldsTheResetValues :=
  ⟨rfl, rfl, rfl, rfl, rfl, rfl, rfl, cell_eq_none_of_raster_nil rfl, rfl, rfl⟩

/-- Settles O11: the codes are the definitions' own; the other two clauses are the lemmas above. -/
theorem statusAndErrorCodes : Obligations.StatusAndErrorCodes :=
  ⟨rfl, rfl, rfl, rfl, rfl, rfl, rfl, errCode_code_ne_reserved, fun _ => rasterValid_iff⟩

/-- Settles O56. -/
theorem resetMeetsTheInvariant : Obligations.ResetMeetsTheInvariant := inv_reset

end Sys2Proof.Proofs
end

section
/-! CMD.START forgets the earlier decode (spec/10_state.md R24), and the statement about it (O49). -/

namespace Sys2Proof.Machine

/-- Where CMD.START is not refused for a running decode (R127), its outcome reads only the dimensions, and what it
keeps are the fields an earlier decode does not leave anything in. -/
theorem execCmdStart_of_not_busy {s : State} (h : s.status ≠ .busy) (len : BitVec 32) :
    execCmdStart len s =
      if s.dimensionsOk = false then .refused .unsupportedDimensions
      else if len.toNat = s.frameBytes then
        .next { beginDecode len s with pend := allPositions s.w s.h, status := .busy }
      else .next (raise .length (beginDecode len s)) := if_neg h

end Sys2Proof.Machine

namespace Sys2Proof.Proofs

open Sys2Proof.Machine

/-- Settles O49: outside BUSY every field in which the two states differ is overwritten before it is read. -/
theorem startForgetsTheEarlierDecode : Obligations.StartForgetsTheEarlierDecode := by
  intro len s s' hs hs' hdiff
  obtain ⟨n, st, e, r, p, rfl⟩ : ∃ n st e r p,
      s' = { s with len := n, status := st, errcode := e, raster := r, pend := p } := ⟨_, _, _, _, _, hdiff⟩
  change execCmdStart len s = execCmdStart len _
  rw [execCmdStart_of_not_busy hs, execCmdStart_of_not_busy hs']
  rfl

end Sys2Proof.Proofs
end

section
/-! What each operation writes (spec/10_state.md R10 to R19), and the statement about all of them (O55). `OwnWrites i`
relates a state to one that differs from it only where `i` may write; one rule for each kind of write, and
transitivity, cover what the inversion lemmas say of every operation. -/

namespace Sys2Proof.Machine

/-- `t` differs from `s` only in fields that the rule of `i` lists, and in the model's own `choices` and `draws`. -/
def OwnWrites (i : Instr) (s t : State) : Prop :=
  t.buf = s.buf ∧ t.cfgW = s.cfgW ∧ t.cfgH = s.cfgH ∧ t.port = s.port ∧
  (writesLen i = false → t.len = s.len) ∧ (writesRaster i = false → t.raster = s.raster) ∧
  (writesLat i = false → t.lat = s.lat) ∧ (returns i = false → t.reply = s.reply) ∧
  (writesControl i = false → t.status = s.status ∧ t.errcode = s.errcode ∧ t.pend = s.pend)

variable {i : Instr} {s t u : State}

/-! ## One rule for each kind of write -/

theorem OwnWrites.refl : OwnWrites i s s := by simp [OwnWrites]

theorem OwnWrites.trans (hst : OwnWrites i s t) (htu : OwnWrites i t u) : OwnWrites i s u := by
  obtain ⟨hbuf, hw, hh, hport, hlen, hraster, hlat, hreply, hcontrol⟩ := hst
  obtain ⟨hbuf', hw', hh', hport', hlen', hraster', hlat', hreply', hcontrol'⟩ := htu
  refine ⟨hbuf'.trans hbuf, hw'.trans hw, hh'.trans hh, hport'.trans hport, fun hi => (hlen' hi).trans (hlen hi),
    fun hi => (hraster' hi).trans (hraster hi), fun hi => (hlat' hi).trans (hlat hi),
    fun hi => (hreply' hi).trans (hreply hi), fun hi => ?_⟩
  obtain ⟨hst, he, hp⟩ := hcontrol hi
  obtain ⟨hst', he', hp'⟩ := hcontrol' hi
  exact ⟨hst'.trans hst, he'.trans he, hp'.trans hp⟩

theorem OwnWrites.len (hi : writesLen i = true) (n : BitVec 32) : OwnWrites i s { s with len := n } := by
  simp [OwnWrites, hi]

theorem OwnWrites.raster (hi : writesRaster i = true) (r : Raster) : OwnWrites i s { s with raster := r } := by
  simp [OwnWrites, hi]

theorem OwnWrites.lat (hi : writesLat i = true) (l : Latches) : OwnWrites i s { s with lat := l } := by
  simp [OwnWrites, hi]

/-- A value is returned; reading cells for it may use free draws (log 6). -/
theorem OwnWrites.reply (hi : returns i = true) (a : Reply) (d : Nat) :
    OwnWrites i s { s with reply := a, draws := d } := by
  simp [OwnWrites, hi]

theorem OwnWrites.control (hi : writesControl i = true) (st : Status) (e : ErrCode) (p : List Pos) :
    OwnWrites i s { s with status := st, errcode := e, pend := p } := by
  simp [OwnWrites, hi]

/-- What moves of the decoder write: raster, control state, and free choices (log 5). -/
theorem OwnWrites.decoding (hr : writesRaster i = true) (hc : writesControl i = true) (c : List Nat) (r : Raster)
    (p : List Pos) (st : Status) (e : ErrCode) :
    OwnWrites i s { s with choices := c, raster := r, pend := p, status := st, errcode := e } := by
  simp [OwnWrites, hr, hc]

/-! ## Inversion of the operations with one way to go on -/

/-- A store that goes on has written the raster alone. -/
theorem storePixel_next {x y : Nat} {p : Pixel} (h : storePixel x y p s = .next t) :
    ∃ r, t = { s with raster := r } := by
  rcases storePixel_cases x y p s with ⟨_, e⟩ | ⟨_, e⟩ <;> rw [e] at h <;> cases h
  exact ⟨_, rfl⟩

/-- A BX.FETCH that goes on was in bounds. -/
theorem execBxFetch_next {sel : BitVec 2} (h : execBxFetch sel s = .next t) :
    s.offsetOk s.lat.offset = true ∧ t = { s with lat := fetch s s.lat } := by
  unfold execBxFetch at h
  split at h
  · rename_i hok; cases h; exact ⟨hok, rfl⟩
  · cases h

/-- A CMD.RDPIX that goes on was in range, and has answered with a pixel. -/
theorem execCmdRdpix_next {x : BitVec 10} {y : BitVec 9} (h : execCmdRdpix x y s = .next t) :
    s.inRaster x.toNat y.toNat = true ∧ ∃ p d, t = { s with reply := .pixel p, draws := d } := by
  unfold execCmdRdpix at h
  split at h
  · rename_i hin
    obtain ⟨d, hd⟩ := readCell_state x.toNat y.toNat s
    rw [hd] at h
    cases h
    exact ⟨hin, _, d, rfl⟩
  · cases h

/-! ## The operations that write more than one kind -/

/-- Both ways a PIX goes on: a pixel stored, or the raise. -/
theorem ownWrites_of_runPixel {sel : BitVec 2} {x y : Nat} (hr : writesRaster i = true) (hc : writesControl i = true)
    (h : runPixel sel x y s = .next t) : OwnWrites i s t := by
  rcases (runPixel_next h).2 with ⟨_, p, rfl⟩ | rfl
  · exact .raster hr _
  · exact .control hc _ _ _

theorem ownWrites_rdNext (h : exec .rdNext s = .next t) : OwnWrites .rdNext s t := by
  rcases (execRdNext_next h).2 with ⟨r, rfl⟩ | rfl
  · exact .decoding rfl rfl _ _ _ _ _
  · exact .decoding rfl rfl _ _ _ _ _

theorem ownWrites_extract {offset : BitVec 32} {parity : BitVec 1} (h : exec (.extract offset parity) s = .next t) :
    OwnWrites (.extract offset parity) s t := by
  obtain ⟨_, a, rfl | rfl⟩ := execExtract_next h
  · exact .reply rfl _ _
  · exact .trans (.control rfl _ _ _) (.reply rfl _ _)

theorem ownWrites_cmdStart {len : BitVec 32} (h : exec (.cmdStart len) s = .next t) :
    OwnWrites (.cmdStart len) s t := by
  obtain ⟨e, p, st, rfl⟩ := execCmdStart_next h
  exact .trans (.len rfl len) (.decoding rfl rfl _ _ _ _ _)

theorem ownWrites_decodeFrame {n : BitVec 32} (h : exec (.decodeFrame n) s = .next t) :
    OwnWrites (.decodeFrame n) s t := by
  obtain ⟨c, r, p, st, e, a, d, rfl⟩ := execDecodeFrame_next h
  exact .trans (.len rfl n) (.trans (.decoding rfl rfl c r p st e) (.reply rfl a d))

/-! ## Every operation -/

theorem ownWrites_of_exec_next (h : exec i s = .next t) : OwnWrites i s t := by
  cases i with
  | rdRowP0 | rdRowP1 | rdColE | rdColO | rdOffs | bxSplit | bxLselE | bxLselO | bxCenter
  | cscR | cscG | cscB | cscBias | cscClamp | cscTrunc => cases h; exact .lat rfl _
  | bxFetch sel => obtain ⟨_, rfl⟩ := execBxFetch_next (sel := sel) h; exact .lat rfl _
  | cmdStatus | convert | normalize => cases h; exact .reply rfl _ _
  | cmdRdpix => obtain ⟨_, _, _, rfl⟩ := execCmdRdpix_next h; exact .reply rfl _ _
  | bxChk sel =>
    rcases (execBxChk_next sel h).2 with rfl | rfl
    · exact .refl
    · exact .control rfl _ _ _
  | cmdDone => obtain ⟨_, _, rfl⟩ := execCmdDone_next h; exact .control rfl _ _ _
  | rdStore => obtain ⟨_, rfl⟩ := storePixel_next h; exact .raster rfl _
  | pixEE | pixEO | pixOE | pixOO => exact ownWrites_of_runPixel rfl rfl h
  | rdNext => exact ownWrites_rdNext h
  | extract => exact ownWrites_extract h
  | cmdStart => exact ownWrites_cmdStart h
  | decodeFrame => exact ownWrites_decodeFrame h
  | cmdReserved => cases h

end Sys2Proof.Machine

namespace Sys2Proof.Proofs

open Sys2Proof.Machine

/-- Settles O55, by the case split over the operations and what each can do where it goes on. -/
theorem everyOperationWritesOnlyItsOwnState : Obligations.EveryOperationWritesOnlyItsOwnState :=
  fun _ _ _ h => ownWrites_of_exec_next h

end Sys2Proof.Proofs
end

section
/-! The word address of a position (spec/10_state.md R36, R37), and the statement about it (O44). -/

namespace Sys2Proof.Machine

variable {l : Latches}

/-! ## The parities SEL carries (R54) -/

theorem rpOf_selOf_eq_zero_iff (x y : Nat) : rpOf (selOf x y) = 0#1 ↔ y % 2 = 0 := by
  rcases Nat.mod_two_eq_zero_or_one y with hy | hy <;> rcases Nat.mod_two_eq_zero_or_one x with hx | hx <;>
    rw [selOf, selNumber, hy, hx] <;> decide

theorem cpOf_selOf_eq_zero_iff (x y : Nat) : cpOf (selOf x y) = 0#1 ↔ x % 2 = 0 := by
  rcases Nat.mod_two_eq_zero_or_one y with hy | hy <;> rcases Nat.mod_two_eq_zero_or_one x with hx | hx <;>
    rw [selOf, selNumber, hy, hx] <;> decide

/-! ## The row and column operations, each on its own parity -/

/-- An even row starts in plane 0 (R100). -/
theorem rowP0_base_of_even (w h : Nat) (hy : l.y % 2 = 0) :
    (rowP0 w l).base = l.y % 2 * w * h + l.y / 2 * 2 * w := by
  rw [hy, rowP0]; ring

/-- An odd row starts in plane 1, `W * H` bytes on (R101). -/
theorem rowP1_base_of_odd (w h : Nat) (hy : l.y % 2 = 1) :
    (rowP1 w h l).base = l.y % 2 * w * h + l.y / 2 * 2 * w := by
  have hidx : oddRowIdx l.y = l.y / 2 := by rw [oddRowIdx, if_neg (by omega)]; omega
  rw [rowP1, hidx, hy]; ring

theorem colE_pairOff_of_even (hx : l.x % 2 = 0) : (colE l).pairOff = l.x / 2 * 4 := by
  change l.x * 2 = _; omega

theorem colO_pairOff_of_odd (hx : l.x % 2 = 1) : (colO l).pairOff = l.x / 2 * 4 := by
  change oddPairOff l.x = _
  rw [oddPairOff, if_neg (by omega)]; omega

/-! ## The address a PIX works with -/

/-- The operations SEL selects give the address of R110, in each of the four parities. -/
theorem addressLat_offset (s : State) (x y : Nat) :
    (addressLat (selOf x y) x y s).offset = closedOffset s.w s.h x y := by
  simp only [addressLat, rpOf_selOf_eq_zero_iff, cpOf_selOf_eq_zero_iff]
  rcases Nat.mod_two_eq_zero_or_one y with hy | hy <;> rcases Nat.mod_two_eq_zero_or_one x with hx | hx <;>
    simp only [hy, hx, one_ne_zero, if_true, if_false]
  · exact congrArg₂ (· + ·) (rowP0_base_of_even s.w s.h hy) (colE_pairOff_of_even hx)
  · exact congrArg₂ (· + ·) (rowP0_base_of_even s.w s.h hy) (colO_pairOff_of_odd hx)
  · exact congrArg₂ (· + ·) (rowP1_base_of_odd s.w s.h hy) (colE_pairOff_of_even hx)
  · exact congrArg₂ (· + ·) (rowP1_base_of_odd s.w s.h hy) (colO_pairOff_of_odd hx)

theorem addressLat_par (s : State) (x y : Nat) : (addressLat (selOf x y) x y s).par.toNat = x % 2 := by
  simp only [addressLat, cpOf_selOf_eq_zero_iff]
  rcases Nat.mod_two_eq_zero_or_one x with hx | hx <;> simp only [hx, one_ne_zero, if_true, if_false] <;> rfl

/-- The first three operations of a PIX (R63), run one by one, always complete and leave the address the PIX works
with; SEL selects them and is not written. -/
theorem runOperations_address (sel : BitVec 2) (s : State) :
    runOperations ((expansion sel).take 3) s =
      .next { s with lat := { addressLat sel s.lat.x s.lat.y s with sel := s.lat.sel } } := by
  unfold expansion addressLat
  by_cases hr : rpOf sel = 0#1 <;> by_cases hc : cpOf sel = 0#1 <;> simp only [hr, hc, if_true, if_false] <;> rfl

/-- R36 with the numbers of the hardwired dimensions. -/
theorem closedOffset_hardwired (x y : Nat) :
    closedOffset 720 480 x y = 345600 * (y % 2) + 1440 * (y / 2) + 4 * (x / 2) := by
  unfold closedOffset; ring

end Sys2Proof.Machine

namespace Sys2Proof.Proofs

open Sys2Proof.Machine

/-- Settles O44: the three operations leave the address of R36; its plane and its bounds are arithmetic. -/
theorem offsetsLieInThePlaneOfTheirRow : Obligations.OffsetsLieInThePlaneOfTheirRow := by
  intro s x y ⟨hw, hh⟩ hx hy
  refine ⟨_, runOperations_address (selOf x y) _, ?_⟩
  have hoff : closedOffset s.w s.h x y = 345600 * (y % 2) + 1440 * (y / 2) + 4 * (x / 2) := by
    rw [State.w, State.h, hw, hh]
    exact closedOffset_hardwired x y
  simp only [addressLat_offset, addressLat_par, w_with_lat, h_with_lat, hoff, and_true]
  omega

end Sys2Proof.Proofs
end

section
/-! The step rule of a host write (spec/30_encoding.md R63 FILL, spec/20_memory.md R44), what it leaves at each byte of
BUF, and the statement about it (O8). -/

namespace Sys2Proof.Machine

variable {s : State} {rest : List Event} {a : Nat} {bytes : List Byte}

/-- The step rule of a host write (log 8). -/
theorem step_fill (hport : s.port = .fill a bytes :: rest) : step s = hostFill a bytes { s with port := rest } := by
  simp only [step, hport]

theorem hostFill_busy (h : s.status = .busy) : hostFill a bytes s = .refused .bufWriteWhileBusy := if_pos h

theorem hostFill_inside (h : s.status ≠ .busy) (hlen : a + bytes.length ≤ 2 ^ 32) :
    hostFill a bytes s = .next { s with buf := assocWriteList s.buf a bytes } := by
  rw [hostFill, if_neg h, if_pos hlen]

theorem hostFill_beyond (h : s.status ≠ .busy) (hlen : 2 ^ 32 < a + bytes.length) :
    hostFill a bytes s = .fault .sourceOutOfRange := by
  rw [hostFill, if_neg h, if_neg (by omega)]

/-- A byte of BUF after a host write: the written one where there is one, else as before. -/
theorem bufByte_fill (s : State) (a : Nat) (bytes : List Byte) (k : Nat) :
    State.bufByte { s with buf := assocWriteList s.buf a bytes } k =
      if a ≤ k then (bytes[k - a]?).getD (s.bufByte k) else s.bufByte k := by
  simp only [State.bufByte, assocRead_writeList]
  split
  · cases bytes[k - a]? <;> rfl
  · rfl

theorem bufByte_fill_inside (s : State) {i : Nat} {b : Byte} (h : bytes[i]? = some b) :
    State.bufByte { s with buf := assocWriteList s.buf a bytes } (a + i) = b := by
  rw [bufByte_fill, if_pos (Nat.le_add_right a i), Nat.add_sub_cancel_left, h, Option.getD_some]

theorem bufByte_fill_outside (s : State) {k : Nat} (h : k < a ∨ a + bytes.length ≤ k) :
    State.bufByte { s with buf := assocWriteList s.buf a bytes } k = s.bufByte k := by
  rw [bufByte_fill]
  rcases h with hbelow | habove
  · rw [if_neg (by omega)]
  · rw [List.getElem?_eq_none (by omega), Option.getD_none, ite_self]

end Sys2Proof.Machine

namespace Sys2Proof.Proofs

open Sys2Proof.Machine

/-- Settles O8: the step is the host write, and the three clauses are its three cases. -/
theorem hostFillWritesItsBytes : Obligations.HostFillWritesItsBytes := by
  intro s a bytes rest hport
  rw [step_fill hport]
  refine ⟨fun hidle hlen => ?inside, fun hbusy => ?busy, fun hidle hlen => ?beyond⟩
  case inside =>
    exact ⟨_, hostFill_inside hidle hlen, rfl, fun _ _ hi => bufByte_fill_inside _ hi,
      fun _ hk => bufByte_fill_outside _ hk⟩
  case busy => exact hostFill_busy hbusy
  case beyond => exact hostFill_beyond hidle hlen

end Sys2Proof.Proofs
end

section
/-! A PIX and the fifteen operations it expands to (spec/30_encoding.md R63, spec/42_raster_decoder.md R107), and the
statement about them (O42). The expansion is cut into the stages a PIX is made of: address, EXTRACT, CONVERT, store;
each stage, run one operation after another, does to `lat` what the function of the composite operation does. -/

namespace Sys2Proof.Machine

variable {s t : State}

/-! ## Running operations one after another -/

theorem runOperations_cons {f : State → Instr} (fs : List (State → Instr)) (h : exec (f s) s = .next t) :
    runOperations (f :: fs) s = runOperations fs t := by
  rw [runOperations, h]

theorem runOperations_append {fs : List (State → Instr)} (gs : List (State → Instr))
    (h : runOperations fs s = .next t) : runOperations (fs ++ gs) s = runOperations gs t := by
  induction fs generalizing s with
  | nil => cases h; rfl
  | cons f fs ih =>
    cases hf : exec (f s) s with
    | next u =>
      rw [runOperations_cons fs hf] at h
      rw [List.cons_append, runOperations_cons _ hf, ih h]
    | fault e => rw [runOperations, hf] at h; cases h
    | refused r => rw [runOperations, hf] at h; cases h

/-! ## The stages of a PIX -/

/-- The operations of EXTRACT within a PIX (R77). -/
def extractOperations (sel : BitVec 2) : List (State → Instr) := ((expansion sel).drop 3).take 5

/-- The operations of CONVERT within a PIX (R87). -/
def convertOperations (sel : BitVec 2) : List (State → Instr) := ((expansion sel).drop 8).take 6

theorem expansion_eq_stages (sel : BitVec 2) :
    expansion sel = (expansion sel).take 3 ++ (extractOperations sel ++ (convertOperations sel ++
      [fun s => .rdStore s.lat.pr s.lat.pg s.lat.pb])) := rfl

theorem exec_bxChk_of_ok (sel : BitVec 2) (he : s.status ≠ .error) (hok : s.offsetOk s.lat.offset = true) :
    exec (.bxChk sel) s = .next s :=
  (unlessError_run he _).trans (if_pos hok)

theorem exec_bxFetch_of_ok (sel : BitVec 2) (hok : s.offsetOk s.lat.offset = true) :
    exec (.bxFetch sel) s = .next { s with lat := fetch s s.lat } := if_pos hok

theorem storePixel_of_inRaster {x y : Nat} (p : Pixel) (h : s.inRaster x y = true) :
    storePixel x y p s = .next { s with raster := assocWrite s.raster (s.cellIndex x y) p } := if_pos h

/-- The luma operation is the one CP selects, where EXTRACT looks at PAR: they agree after the column operation. -/
theorem runOperations_extract {sel : BitVec 2} (he : s.status ≠ .error) (hok : s.offsetOk s.lat.offset = true)
    (hpar : s.lat.par = 0#1 ↔ cpOf sel = 0#1) :
    runOperations (extractOperations sel) s = .next { s with lat := extractWord s s.lat } := by
  have hluma : (split (fetch s s.lat).word (fetch s s.lat)).par = 0#1 ↔ cpOf sel = 0#1 := hpar
  refine (runOperations_cons (f := fun _ => .bxChk sel) _ (exec_bxChk_of_ok sel he hok)).trans ?_
  refine (runOperations_cons (f := fun _ => .bxFetch sel) _ (exec_bxFetch_of_ok sel hok)).trans ?_
  by_cases hc : cpOf sel = 0#1 <;> simp only [extractWord, hluma, hc, if_true, if_false] <;> rfl

theorem runOperations_convert (sel : BitVec 2) (s : State) :
    runOperations (convertOperations sel) s = .next { s with lat := convertLat s.lat } := rfl

theorem runOperations_store (hin : s.inRaster s.lat.x s.lat.y = true) :
    runOperations [fun s => .rdStore s.lat.pr s.lat.pg s.lat.pb] s = .next { s with
      raster := assocWrite s.raster (s.cellIndex s.lat.x s.lat.y) (latPixel s.lat) } :=
  runOperations_cons [] (storePixel_of_inRaster _ hin)

/-! ## What the stages keep -/

theorem addressLat_pos (sel : BitVec 2) (x y : Nat) (s : State) :
    (addressLat sel x y s).x = x ∧ (addressLat sel x y s).y = y := by
  by_cases hr : rpOf sel = 0#1 <;> by_cases hc : cpOf sel = 0#1 <;>
    simp [addressLat, hr, hc, offs, colE, colO, rowP0, rowP1]

theorem addressLat_par_eq_zero_iff (sel : BitVec 2) (x y : Nat) (s : State) :
    (addressLat sel x y s).par = 0#1 ↔ cpOf sel = 0#1 := by
  by_cases hc : cpOf sel = 0#1 <;> simp [addressLat, hc, offs, colE, colO]

theorem extractWord_pos (s : State) (l : Latches) : (extractWord s l).x = l.x ∧ (extractWord s l).y = l.y := by
  by_cases hp : l.par = 0#1 <;> simp [extractWord, fetch, split, center, lselE, lselO, hp]

theorem convertLat_pos (l : Latches) : (convertLat l).x = l.x ∧ (convertLat l).y = l.y := by
  simp [convertLat, truncChannels, clampChannels, addBias, combineB, combineG, combineR]

/-- No operation after the address stage reads SEL from `lat`. -/
theorem latPixel_with_sel (s : State) (l : Latches) (sel : BitVec 2) :
    latPixel (convertLat (extractWord s { l with sel := sel })) = latPixel (convertLat (extractWord s l)) := by
  by_cases hp : l.par = 0#1 <;> simp [extractWord, fetch, split, hp] <;> rfl

/-! ## The whole expansion -/

/-- From the address on: extraction, conversion and the store, for whatever transient values the address stage left. -/
theorem runOperations_afterAddress {sel : BitVec 2} {l : Latches} (he : s.status ≠ .error)
    (hin : s.inRaster l.x l.y = true) (hok : s.offsetOk l.offset = true) (hpar : l.par = 0#1 ↔ cpOf sel = 0#1) :
    runOperations (extractOperations sel ++ (convertOperations sel ++
        [fun s => .rdStore s.lat.pr s.lat.pg s.lat.pb])) { s with lat := l } = .next { s with
      lat := convertLat (extractWord s l)
      raster := assocWrite s.raster (s.cellIndex l.x l.y) (latPixel (convertLat (extractWord s l))) } := by
  have hx : (convertLat (extractWord s l)).x = l.x := (convertLat_pos _).1.trans (extractWord_pos s l).1
  have hy : (convertLat (extractWord s l)).y = l.y := (convertLat_pos _).2.trans (extractWord_pos s l).2
  have hextract : runOperations (extractOperations sel) { s with lat := l } =
      .next { s with lat := extractWord s l } := runOperations_extract (s := { s with lat := l }) he hok hpar
  have hstore := runOperations_store (s := { s with lat := convertLat (extractWord s l) })
    (by rw [inRaster_with_lat, hx, hy]; exact hin)
  rw [hx, hy] at hstore
  rw [runOperations_append _ hextract, runOperations_append _ (runOperations_convert sel _)]
  exact hstore

/-- The fifteen operations of a PIX write the pixel in its cell, and leave transient values behind. -/
theorem runOperations_expansion {sel : BitVec 2} (he : s.status ≠ .error)
    (hin : s.inRaster s.lat.x s.lat.y = true)
    (hok : s.offsetOk (addressLat sel s.lat.x s.lat.y s).offset = true) :
    ∃ l, runOperations (expansion sel) s = .next { s with
      lat := l
      raster := assocWrite s.raster (s.cellIndex s.lat.x s.lat.y)
        (latPixel (convertLat (extractWord s (addressLat sel s.lat.x s.lat.y s)))) } := by
  obtain ⟨hx, hy⟩ := addressLat_pos sel s.lat.x s.lat.y s
  have hrest := runOperations_afterAddress (l := { addressLat sel s.lat.x s.lat.y s with sel := s.lat.sel }) he
    (by rw [hx, hy]; exact hin) hok (addressLat_par_eq_zero_iff sel s.lat.x s.lat.y s)
  rw [latPixel_with_sel, hx, hy] at hrest
  exact ⟨_, (runOperations_append _ (runOperations_address sel s)).trans hrest⟩

theorem exec_pixVariant {n : Nat} (hn : n < 4) (x : BitVec 10) (y : BitVec 9) (s : State) :
    exec (pixVariant n x y) s = runPixel (BitVec.ofNat 2 n) x.toNat y.toNat s := by
  interval_cases n <;> rfl

/-- In bounds and outside ERROR a PIX of a position of the raster writes its pixel in its cell. -/
theorem runPixel_of_ok {sel : BitVec 2} {x y : Nat} (he : s.status ≠ .error) (hin : s.inRaster x y = true)
    (hok : s.offsetOk (addressLat sel x y s).offset = true) :
    runPixel sel x y s = .next { s with
      raster := assocWrite s.raster (s.cellIndex x y)
        (latPixel (convertLat (extractWord s (addressLat sel x y s)))) } := by
  rw [runPixel, unlessError_run he, extractLat, if_pos hok]
  exact storePixel_of_inRaster _ hin

theorem selNumber_lt (x y : Nat) : selNumber x y < 4 := by unfold selNumber; omega

theorem offsetOk_addressLat_iff (x y : Nat) (s : State) :
    s.offsetOk (addressLat (selOf x y) x y s).offset = true ↔
      closedOffset s.cfgW.toNat s.cfgH.toNat x y + 4 ≤ s.len.toNat := by
  rw [addressLat_offset, State.offsetOk, decide_eq_true_iff]; rfl

end Sys2Proof.Machine

namespace Sys2Proof.Proofs

open Sys2Proof.Machine

/-- Settles O42: both sides write the pixel of the word at the address of the position. -/
theorem pixEqualsItsFifteenOperations : Obligations.PixEqualsItsFifteenOperations := by
  intro s x y he hx hy hlen
  have hin := (inRaster_iff s x.toNat y.toNat).2 ⟨hx, hy⟩
  have hok := (offsetOk_addressLat_iff x.toNat y.toNat s).2 hlen
  obtain ⟨l, hops⟩ := runOperations_expansion (sel := selOf x.toNat y.toNat)
    (s := { s with lat := { s.lat with x := x.toNat, y := y.toNat } }) he hin hok
  refine ⟨_, hops, ?_⟩
  rw [exec_pixVariant (selNumber_lt ..)]
  exact runPixel_of_ok he hin hok

end Sys2Proof.Proofs
end

section
/-! The cell word and the byte view of the raster (spec/30_encoding.md R56, spec/10_state.md R38), and the statement
about them (O47). -/

namespace Sys2Proof.Machine

variable {s : State}

/-- The channel numbered `c` of a pixel: "`0 = R`, `1 = G`, `2 = B`" (R38). -/
def channelByte (p : Pixel) (c : Nat) : Byte :=
  match c with
  | 0 => p.r
  | 1 => p.g
  | _ => p.b

theorem rasterByte_eq (s : State) (a : Nat) :
    s.rasterByte a = (s.cell (a / 3 % s.w) (a / 3 / s.w)).map (channelByte · (a % 3)) := rfl

/-- Three bytes to a cell, the cells row-major (R38). -/
theorem rasterByte_cell {x y c : Nat} (hx : x < s.w) (hc : c < 3) :
    s.rasterByte (3 * s.cellIndex x y + c) = (s.cell x y).map (channelByte · c) := by
  have hindex : (3 * s.cellIndex x y + c) / 3 = s.cellIndex x y := by omega
  have hchannel : (3 * s.cellIndex x y + c) % 3 = c := by omega
  have hcolumn : s.cellIndex x y % s.w = x := by
    rw [State.cellIndex, Nat.mul_add_mod_self_right, Nat.mod_eq_of_lt hx]
  have hrow : s.cellIndex x y / s.w = y := by
    rw [State.cellIndex, Nat.mul_comm, Nat.mul_add_div (by omega), Nat.div_eq_of_lt hx, Nat.add_zero]
  rw [rasterByte_eq, hindex, hchannel, hcolumn, hrow]

/-- The bits of the three channels in the cell word `{R, G, B}` (R56). -/
theorem pixelWord_channels (p : Pixel) :
    (pixelWord p).extractLsb' 16 8 = p.r ∧ (pixelWord p).extractLsb' 8 8 = p.g ∧
      (pixelWord p).extractLsb' 0 8 = p.b := by
  rw [pixelWord]
  refine ⟨?red, ?green, ?blue⟩
  case red =>
    rw [BitVec.extractLsb'_append_eq_of_le (by decide), BitVec.extractLsb'_append_eq_of_le (by decide)]
    exact BitVec.extractLsb'_eq_self
  case green =>
    rw [BitVec.extractLsb'_append_eq_of_le (by decide), BitVec.extractLsb'_append_eq_of_add_le (by decide)]
    exact BitVec.extractLsb'_eq_self
  case blue =>
    rw [BitVec.extractLsb'_append_eq_of_add_le (by decide)]
    exact BitVec.extractLsb'_eq_self

end Sys2Proof.Machine

namespace Sys2Proof.Proofs

open Sys2Proof.Machine

/-- Settles O47, from the byte of each channel in the byte view and the bits of the cell word. -/
theorem rasterByteViewHoldsTheChannels : Obligations.RasterByteViewHoldsTheChannels := by
  intro s x y p hx _ hcell
  have hbyte {c : Nat} (hc : c < 3) : s.rasterByte (3 * s.cellIndex x y + c) = some (channelByte p c) := by
    rw [rasterByte_cell hx hc, hcell, Option.map_some]
  exact ⟨hbyte (c := 0) (by omega), hbyte (c := 1) (by omega), hbyte (c := 2) (by omega), pixelWord_channels p⟩

end Sys2Proof.Proofs
end

section
/-! Words written out from the formats (spec/30_encoding.md R51, R54, R55, R56), and the statement about them (O4). -/

namespace Sys2Proof.Proofs

/-- Settles O4: the decoder computes on each written-out word. -/
theorem writtenOutWordsDecode : Obligations.WrittenOutWordsDecode :=
  ⟨rfl, rfl, rfl, rfl, rfl, rfl, rfl, rfl, rfl, rfl, rfl, rfl, rfl, rfl⟩

end Sys2Proof.Proofs
end

section
/-! The decoder's enabled step and WAIT (spec/42_raster_decoder.md R106, spec/43_command_interface.md R121, R122,
spec/30_encoding.md R63), and the statement about WAIT (O7). -/

namespace Sys2Proof.Machine

variable {s : State} {rest : List Event}

theorem decoderStep_of_pending (hbusy : s.status = .busy) (hpend : s.pend ≠ []) :
    decoderStep s = exec .rdNext s := by
  rw [decoderStep, if_pos hbusy, if_neg hpend]; rfl

theorem decoderStep_of_none_pending (hbusy : s.status = .busy) (hpend : s.pend = []) :
    decoderStep s = exec .cmdDone s := by
  rw [decoderStep, if_pos hbusy, if_pos hpend]; rfl

/-- While BUSY the decoder moves and WAIT stays at the port (log 8). -/
theorem step_wait_busy (hport : s.port = .wait :: rest) (hbusy : s.status = .busy) : step s = decoderStep s := by
  simp only [step, hport, hbusy, if_true]

/-- Outside BUSY WAIT ends as CMD.STATUS does (R63). -/
theorem step_wait_not_busy (hport : s.port = .wait :: rest) (hidle : s.status ≠ .busy) :
    step s = execCmdStatus { s with port := rest } := by
  simp only [step, hport, hidle, if_false]

end Sys2Proof.Machine

namespace Sys2Proof.Proofs

open Sys2Proof.Machine

/-- Settles O7, from the two step rules of WAIT; while BUSY the decoder has one enabled step. -/
theorem waitEndsWithTheStatus : Obligations.WaitEndsWithTheStatus := by
  intro s rest hport
  refine ⟨fun hbusy hpend => ?next, fun hbusy hpend => ?done, fun hidle => ?answer⟩
  case next => rw [step_wait_busy hport hbusy, decoderStep_of_pending hbusy hpend]
  case done => rw [step_wait_busy hport hbusy, decoderStep_of_none_pending hbusy hpend]
  case answer => exact step_wait_not_busy hport hidle

end Sys2Proof.Proofs
end

section
/-! Centring of one sample (spec/30_encoding.md R59, spec/40_byte_extractor.md R75), and the statement about it
(O29). -/

namespace Sys2Proof.Machine

theorem normalizeByte_injective : Function.Injective normalizeByte := by
  intro v v' h
  refine BitVec.eq_of_toNat_eq ?_
  unfold normalizeByte at h
  omega

/-- The byte `n + 128` centres to `n`. -/
theorem exists_normalizeByte_eq {n : Int} (hlow : -128 ≤ n) (hhigh : n ≤ 127) : ∃ v : Byte, normalizeByte v = n := by
  refine ⟨BitVec.ofInt 8 (n + 128), ?_⟩
  rw [normalizeByte, BitVec.toNat_ofInt]
  omega

theorem exec_normalize_eq_iff (v : Byte) (s : State) (n : Int) :
    exec (.normalize v) s = .next { s with reply := .sample n } ↔ normalizeByte v = n := by
  simp [exec, execNormalize]

end Sys2Proof.Machine

namespace Sys2Proof.Proofs

open Sys2Proof.Machine

/-- Settles O29: the answer is `normalizeByte`, which is injective and reaches the whole range. -/
theorem normalizeIsABijection : Obligations.NormalizeIsABijection := by
  refine ⟨fun _ _ => rfl, fun s n hlow hhigh => ?_⟩
  obtain ⟨v, hv⟩ := exists_normalizeByte_eq hlow hhigh
  refine ⟨v, (exec_normalize_eq_iff v s n).2 hv, fun v' hv' => ?_⟩
  exact normalizeByte_injective (((exec_normalize_eq_iff v' s n).1 hv').trans hv.symm)

end Sys2Proof.Proofs
end

section
/-! The bytes of a Sample Word (spec/20_memory.md R32, spec/30_encoding.md R51, R53), fetching it and splitting it, and
the statements about them (O24, O25). -/

namespace Sys2Proof.Machine

/-- Shift and mask take eight bits out of the word (R53). -/
theorem shift_mask_eq_extractLsb' (w : SampleWord) (k : Nat) :
    ((w >>> k) &&& 0xFF#32).setWidth 8 = w.extractLsb' k 8 := by
  refine BitVec.eq_of_toNat_eq ?_
  rw [BitVec.toNat_setWidth, BitVec.toNat_and, BitVec.toNat_ushiftRight, BitVec.extractLsb'_toNat]
  change (w.toNat >>> k &&& 2 ^ 8 - 1) % 2 ^ 8 = _
  rw [Nat.and_two_pow_sub_one_eq_mod, Nat.mod_mod]

/-- The four samples by their bit positions (R51). -/
theorem split_eq_extractLsb' (w : SampleWord) (l : Latches) :
    split w l = { l with u := w.extractLsb' 24 8, y1 := w.extractLsb' 16 8, v := w.extractLsb' 8 8,
                         y2 := w.extractLsb' 0 8 } := by
  have hY2 : wordY2 w = w.extractLsb' 0 8 := shift_mask_eq_extractLsb' w 0
  simp only [split, wordU, wordY1, wordV, hY2, shift_mask_eq_extractLsb']

/-- Appended bits stand below, so their number is added. -/
theorem toNat_append_eq_mul_add {m n : Nat} (a : BitVec m) (b : BitVec n) :
    (a ++ b).toNat = a.toNat * 2 ^ n + b.toNat := by
  rw [BitVec.toNat_append, ← Nat.shiftLeft_add_eq_or_of_lt b.isLt, Nat.shiftLeft_eq]

/-- The first byte is the most significant (R32). -/
theorem beWord_toNat (m0 m1 m2 m3 : Byte) :
    (beWord m0 m1 m2 m3).toNat = m0.toNat * 2 ^ 24 + m1.toNat * 2 ^ 16 + m2.toNat * 2 ^ 8 + m3.toNat := by
  simp only [beWord, toNat_append_eq_mul_add]
  omega

/-- The bytes of a Sample Word by their bit positions (R51). -/
theorem beWord_bytes (m0 m1 m2 m3 : Byte) :
    (beWord m0 m1 m2 m3).extractLsb' 24 8 = m0 ∧ (beWord m0 m1 m2 m3).extractLsb' 16 8 = m1 ∧
      (beWord m0 m1 m2 m3).extractLsb' 8 8 = m2 ∧ (beWord m0 m1 m2 m3).extractLsb' 0 8 = m3 := by
  have hnum := beWord_toNat m0 m1 m2 m3
  refine ⟨?_, ?_, ?_, ?_⟩ <;> refine BitVec.eq_of_toNat_eq ?_ <;>
    rw [BitVec.extractLsb'_toNat, Nat.shiftRight_eq_div_pow, hnum] <;> omega

/-- The four samples of a word in memory order (R32, R51): U, Y1, V, Y2. -/
theorem split_beWord (m0 m1 m2 m3 : Byte) (l : Latches) :
    split (beWord m0 m1 m2 m3) l = { l with u := m0, y1 := m1, v := m2, y2 := m3 } := by
  obtain ⟨hU, hY1, hV, hY2⟩ := beWord_bytes m0 m1 m2 m3
  rw [split_eq_extractLsb', hU, hY1, hV, hY2]

theorem offsetOk_iff (s : State) (offset : Nat) : s.offsetOk offset = true ↔ offset + 4 ≤ s.len.toNat :=
  decide_eq_true_iff

end Sys2Proof.Machine

namespace Sys2Proof.Proofs

open Sys2Proof.Machine

/-- Settles O24: in bounds BX.FETCH reads `memRead4`, a big-endian word. -/
theorem fetchReadsTheWordBigEndian : Obligations.FetchReadsTheWordBigEndian := by
  intro sel s hlen
  exact ⟨s.memRead4 s.lat.offset, exec_bxFetch_of_ok sel ((offsetOk_iff ..).2 hlen), beWord_toNat ..⟩

/-- Settles O25: shift and mask are bit positions. -/
theorem splitTakesTheFourSamples : Obligations.SplitTakesTheFourSamples := by
  intro word s
  rw [← split_eq_extractLsb']
  rfl

end Sys2Proof.Proofs
end

section
/-! The bounds test (spec/40_byte_extractor.md R70), the luma selection and the centring (R73 to R75), and the
statements about them (O23, O26, O27). -/

namespace Sys2Proof.Machine

variable {s : State}

theorem offsetOk_eq_false_iff (s : State) (offset : Nat) : s.offsetOk offset = false ↔ s.len.toNat < offset + 4 := by
  rw [State.offsetOk, decide_eq_false_iff_not, Nat.not_le]

/-- Beyond LEN BX.CHK raises, outside ERROR (R70, R137). -/
theorem exec_bxChk_of_beyond (sel : BitVec 2) (he : s.status ≠ .error) (hbeyond : s.offsetOk s.lat.offset = false) :
    exec (.bxChk sel) s = .next (raise .internal s) := by
  refine (unlessError_run he _).trans ?_
  rw [hbeyond]
  rfl

end Sys2Proof.Machine

namespace Sys2Proof.Proofs

open Sys2Proof.Machine

/-- Settles O23, from the two ways BX.CHK goes on. -/
theorem boundsTestPassesOrRaises : Obligations.BoundsTestPassesOrRaises := by
  intro sel s
  refine ⟨fun he hlen => ?passes, fun hbusy hbeyond => ?raises⟩
  case passes => exact exec_bxChk_of_ok sel he ((offsetOk_iff ..).2 hlen)
  case raises =>
    have he : s.status ≠ .error := by simp [hbusy]
    exact exec_bxChk_of_beyond sel he ((offsetOk_eq_false_iff ..).2 hbeyond)

/-- Settles O26: each operation selects its own luma, whatever PAR is (log 15). -/
theorem lumaIsSelectedByParity : Obligations.LumaIsSelectedByParity :=
  fun _ _ => ⟨fun _ => rfl, fun _ => rfl⟩

/-- Settles O27: BX.CENTER is `normalizeByte` on each of the three samples. -/
theorem centeringSubtracts128 : Obligations.CenteringSubtracts128 :=
  fun _ _ => rfl

end Sys2Proof.Proofs
end

section
/-! What EXTRACT takes out of BUF (spec/40_byte_extractor.md R77), and the statement about it (O28). -/

namespace Sys2Proof.Machine

variable {s : State} {l : Latches}

/-- Y1 stands at the second byte of a word and Y2 at the fourth, so the luma of either parity is at
`OFFSET + 1 + 2*PAR`; U is the first byte and V the third (R77). -/
theorem extractWord_samples (s : State) (l : Latches) :
    (extractWord s l).yc = normalizeByte (s.bufByte (l.offset + 1 + 2 * l.par.toNat)) ∧
      (extractWord s l).uc = normalizeByte (s.bufByte l.offset) ∧
      (extractWord s l).vc = normalizeByte (s.bufByte (l.offset + 2)) := by
  rcases BitVec.eq_zero_or_eq_one l.par with hpar | hpar <;>
    simp [extractWord, fetch, State.memRead4, split_beWord, hpar, center, lselE, lselO]

theorem extractLat_of_ok (hok : s.offsetOk l.offset = true) : extractLat s l = some (extractWord s l) := if_pos hok

theorem extractLat_of_beyond (hbeyond : s.offsetOk l.offset = false) : extractLat s l = none := by
  rw [extractLat, hbeyond]
  rfl

theorem exec_extract_of_ok {offset : BitVec 32} (parity : BitVec 1) (he : s.status ≠ .error)
    (hok : s.offsetOk offset.toNat = true) :
    exec (.extract offset parity) s = .next { s with
      reply := .yuv (normalizeByte (s.bufByte (offset.toNat + 1 + 2 * parity.toNat)))
        (normalizeByte (s.bufByte offset.toNat)) (normalizeByte (s.bufByte (offset.toNat + 2))) } := by
  obtain ⟨hyc, huc, hvc⟩ := extractWord_samples s { s.lat with offset := offset.toNat, par := parity }
  refine (unlessError_run he _).trans ?_
  rw [extractLat_of_ok hok, ← hyc, ← huc, ← hvc]

/-- Beyond LEN EXTRACT raises, outside ERROR, and answers with the error (log 17). -/
theorem exec_extract_of_beyond {offset : BitVec 32} (parity : BitVec 1) (he : s.status ≠ .error)
    (hbeyond : s.offsetOk offset.toNat = false) :
    exec (.extract offset parity) s = .next { raise .internal s with reply := .error .internal } := by
  refine (unlessError_run he _).trans ?_
  rw [extractLat_of_beyond hbeyond]

end Sys2Proof.Machine

namespace Sys2Proof.Proofs

open Sys2Proof.Machine

/-- Settles O28, from the two ways EXTRACT goes on. -/
theorem extractReturnsTheCentredSamples : Obligations.ExtractReturnsTheCentredSamples := by
  intro offset parity s he
  refine ⟨fun hlen => ?inside, fun hbeyond => ?beyond⟩
  case inside => exact exec_extract_of_ok parity he ((offsetOk_iff ..).2 hlen)
  case beyond => exact exec_extract_of_beyond parity he ((offsetOk_eq_false_iff ..).2 hbeyond)

end Sys2Proof.Proofs
end

section
/-! The pixel a PIX stores, in the closed form (spec/41_colorspace_conversion.md R88, spec/42_raster_decoder.md R107,
R110), and the statement about the two pixels of a pair (O46). -/

namespace Sys2Proof.Machine

variable {s : State}

/-- CONVERT in integers (R88): each channel is a quotient of integers that is clamped and truncated. -/
theorem latPixel_convertLat (l : Latches) :
    latPixel (convertLat l) = integerPixel (l.yc + 128) l.uc l.vc := by
  have hred : (l.yc : Rat) + kRV * l.vc + bias =
      ((10000 * (l.yc + 128) + 13983 * l.vc : Int) : Rat) / (10000 : Nat) := by
    unfold kRV bias; push_cast; ring
  have hgreen : (l.yc : Rat) - kGU * l.uc - kGV * l.vc + bias =
      ((100000 * (l.yc + 128) - 39465 * l.uc - 58060 * l.vc : Int) : Rat) / (100000 : Nat) := by
    unfold kGU kGV bias; push_cast; ring
  have hblue : (l.yc : Rat) + kBU * l.uc + bias =
      ((100000 * (l.yc + 128) + 203211 * l.uc : Int) : Rat) / (100000 : Nat) := by
    unfold kBU bias; push_cast; ring
  change (⟨channelOf (clampRat (l.yc + kRV * l.vc + bias) 0 255),
    channelOf (clampRat (l.yc - kGU * l.uc - kGV * l.vc + bias) 0 255),
    channelOf (clampRat (l.yc + kBU * l.uc + bias) 0 255)⟩ : Pixel) = _
  rw [channelOf_clampRat, channelOf_clampRat, channelOf_clampRat, hred, hgreen, hblue,
    Rat.floor_intCast_div_natCast, Rat.floor_intCast_div_natCast, Rat.floor_intCast_div_natCast]
  rfl

/-- The word at the address of a position, with the luma of its parity, converts to the pixel of R110. -/
theorem latPixel_addressLat (s : State) (x y : Nat) :
    latPixel (convertLat (extractWord s (addressLat (selOf x y) x y s))) = closedPixel s x y := by
  obtain ⟨hyc, huc, hvc⟩ := extractWord_samples s (addressLat (selOf x y) x y s)
  rw [addressLat_offset] at hyc huc hvc
  rw [addressLat_par] at hyc
  rw [latPixel_convertLat, hyc, huc, hvc, normalizeByte, Int.sub_add_cancel]
  rfl

/-- In bounds and outside ERROR the PIX of a position of the raster stores its closed-form pixel. -/
theorem exec_pix_of_ok {x : BitVec 10} {y : BitVec 9} (he : s.status ≠ .error) (hx : x.toNat < s.cfgW.toNat)
    (hy : y.toNat < s.cfgH.toNat)
    (hlen : closedOffset s.cfgW.toNat s.cfgH.toNat x.toNat y.toNat + 4 ≤ s.len.toNat) :
    exec (pixVariant (selNumber x.toNat y.toNat) x y) s = .next { s with
      raster := assocWrite s.raster (s.cellIndex x.toNat y.toNat) (closedPixel s x.toNat y.toNat) } := by
  rw [exec_pixVariant (selNumber_lt ..), ← latPixel_addressLat]
  exact runPixel_of_ok he ((inRaster_iff ..).2 ⟨hx, hy⟩) ((offsetOk_addressLat_iff ..).2 hlen)

/-- The cell of a position holds what was stored there. -/
theorem cell_store_same {x y : Nat} (p : Pixel) (hx : x < s.cfgW.toNat) (hy : y < s.cfgH.toNat) :
    State.cell { s with raster := assocWrite s.raster (s.cellIndex x y) p } x y = some p := by
  rw [cell_store s p ((inRaster_iff ..).2 ⟨hx, hy⟩), if_pos ⟨rfl, rfl⟩]

/-- The two columns of a pair have one word (R33, R36). -/
theorem closedOffset_succ_of_even (w h y : Nat) {x : Nat} (hx : x % 2 = 0) :
    closedOffset w h (x + 1) y = closedOffset w h x y := by
  have hpair : (x + 1) / 2 = x / 2 := by omega
  rw [closedOffset, closedOffset, hpair]

/-- The left pixel of a pair takes the luma at `OFFSET + 1`. -/
theorem closedPixel_of_even (s : State) (y : Nat) {x : Nat} (hx : x % 2 = 0) :
    closedPixel s x y =
      integerPixel (s.bufByte (closedOffset s.w s.h x y + 1)).toNat
        (normalizeByte (s.bufByte (closedOffset s.w s.h x y)))
        (normalizeByte (s.bufByte (closedOffset s.w s.h x y + 2))) := by
  rw [closedPixel, hx]
  rfl

/-- The right pixel of a pair takes the luma at `OFFSET + 3` of the same word. -/
theorem closedPixel_succ_of_even (s : State) (y : Nat) {x : Nat} (hx : x % 2 = 0) :
    closedPixel s (x + 1) y =
      integerPixel (s.bufByte (closedOffset s.w s.h x y + 3)).toNat
        (normalizeByte (s.bufByte (closedOffset s.w s.h x y)))
        (normalizeByte (s.bufByte (closedOffset s.w s.h x y + 2))) := by
  have hodd : (x + 1) % 2 = 1 := by omega
  rw [closedPixel, hodd, closedOffset_succ_of_even _ _ _ hx]
  rfl

end Sys2Proof.Machine

namespace Sys2Proof.Proofs

open Sys2Proof.Machine

/-- Settles O46: each pixel stores its closed form, and the two closed forms read the same word. -/
theorem pixelsOfAPairShareTheirChroma : Obligations.PixelsOfAPairShareTheirChroma := by
  intro s x x' y he heven hsucc hx' hy hlen
  have hx : x.toNat < s.cfgW.toNat := by omega
  have hlen' : closedOffset s.cfgW.toNat s.cfgH.toNat x'.toNat y.toNat + 4 ≤ s.len.toNat := by
    rw [hsucc, closedOffset_succ_of_even _ _ _ heven]
    exact hlen
  refine ⟨_, _, _, rfl, exec_pix_of_ok he hx hy hlen, exec_pix_of_ok he hx' hy hlen', ?left, ?right⟩
  case left =>
    rw [cell_store_same _ hx hy, closedPixel_of_even s _ heven]
    rfl
  case right =>
    rw [cell_store_same _ hx' hy, hsucc, closedPixel_succ_of_even s _ heven]
    rfl

end Sys2Proof.Proofs
end

section
/-! The colourspace conversion (spec/41_colorspace_conversion.md R81 to R90): what each CSC operation writes, the two
forms of CONVERT, and the statements about them (O30 to O39). -/

namespace Sys2Proof.Machine

variable {q : Rat}

/-- A pair in the list of the values with their images is a value of the list with its own image. -/
theorem mem_and_eq_of_mem_map_graph {α β : Type} {f : α → β} {l : List α} {a : α} {b : β}
    (h : (a, b) ∈ l.map fun x => (x, f x)) : a ∈ l ∧ b = f a := by
  obtain ⟨x, hx, hpair⟩ := List.mem_map.1 h
  cases hpair
  exact ⟨hx, rfl⟩

/-! ## One channel -/

theorem clampRat_of_lt (h : q < 0) : clampRat q 0 255 = 0 := if_pos h

theorem clampRat_of_gt (h : 255 < q) : clampRat q 0 255 = 255 := by
  have h0 : ¬ q < 0 := by linarith
  rw [clampRat, if_neg h0, if_pos h]

theorem clampRat_of_mem (h0 : 0 ≤ q) (h1 : q ≤ 255) : clampRat q 0 255 = q := by
  rw [clampRat, if_neg (not_lt.2 h0), if_neg (not_lt.2 h1)]

theorem clampInt_of_nonpos {n : Int} (h : n ≤ 0) : clampInt n 0 255 = 0 := by
  unfold clampInt; split
  · rfl
  · split <;> omega

theorem clampInt_of_mem {n : Int} (h0 : 0 ≤ n) (h1 : n ≤ 255) : clampInt n 0 255 = n := by
  rw [clampInt, if_neg (not_lt.2 h0), if_neg (not_lt.2 h1)]

theorem clampInt_mono {m n : Int} (h : m ≤ n) : clampInt m 0 255 ≤ clampInt n 0 255 := by
  unfold clampInt; split_ifs <;> omega

theorem channelInt_toNat_mono {m n : Int} (h : m ≤ n) : (channelInt m).toNat ≤ (channelInt n).toNat := by
  have hclamp := clampInt_mono h
  rw [← channelInt_toNat, ← channelInt_toNat] at hclamp
  exact Int.ofNat_le.1 hclamp

/-- In [0, 255] the clamp does nothing, so the channel is the floor itself (R86). -/
theorem channelOf_toNat (h0 : 0 ≤ q) (h1 : q ≤ 255) : ((channelOf q).toNat : Int) = ⌊q⌋ := by
  have hchannel := channelOf_clampRat q
  rw [clampRat_of_mem h0 h1] at hchannel
  have hfloor : ⌊q⌋ ≤ 255 := Int.cast_le.1 ((Int.floor_le q).trans h1)
  rw [hchannel, channelInt_toNat, clampInt_of_mem (Int.floor_nonneg.2 h0) hfloor]

/-- Truncation and floor differ below 0 only, and there the clamp answers 0 for both (R87). -/
theorem channelInt_truncRat (q : Rat) : channelInt (truncRat q) = channelInt ⌊q⌋ := by
  rcases le_or_gt 0 q with h | h
  · rw [truncRat_eq_floor h]
  · have hneg : 0 ≤ (-q.num).tdiv q.den :=
      Int.tdiv_nonneg (Int.neg_nonneg.2 (Rat.num_neg.2 h).le) (Int.natCast_nonneg _)
    have htrunc : truncRat q ≤ 0 := Int.neg_nonneg.1 (Int.neg_tdiv .. ▸ hneg)
    have hfloor : ⌊q⌋ ≤ 0 := (Int.floor_lt.2 (by simpa using h)).le
    rw [channelInt, channelInt, clampInt_of_nonpos htrunc, clampInt_of_nonpos hfloor]

/-! ## CONVERT -/

/-- CONVERT on rationals (R87): each channel is the clamp of the floor of its shifted combination. -/
theorem latPixel_convertLat_floor (l : Latches) :
    latPixel (convertLat l) =
      ⟨channelInt ⌊(l.yc : Rat) + 13983 / 10000 * l.vc + 128⌋,
       channelInt ⌊(l.yc : Rat) - 39465 / 100000 * l.uc - 5806 / 10000 * l.vc + 128⌋,
       channelInt ⌊(l.yc : Rat) + 203211 / 100000 * l.uc + 128⌋⟩ := by
  rw [← channelOf_clampRat, ← channelOf_clampRat, ← channelOf_clampRat]
  rfl

/-- CONVERT answers with the integer form of its sample (R88). -/
theorem exec_convert (yc uc vc : BitVec 8) (s : State) :
    exec (.convert yc uc vc) s = .next { s with
      reply := .pixel (integerPixel (yc.toInt + 128) uc.toInt vc.toInt) } := by
  rw [← latPixel_convertLat { s.lat with yc := yc.toInt, uc := uc.toInt, vc := vc.toInt }]
  rfl

/-- The pixel a completed CONVERT answers with. -/
theorem pixel_of_exec_convert {yc uc vc : BitVec 8} {s t : State} {p : Pixel}
    (hexec : exec (.convert yc uc vc) s = .next t) (hreply : t.reply = .pixel p) :
    p = integerPixel (yc.toInt + 128) uc.toInt vc.toInt := by
  rw [exec_convert] at hexec
  cases hexec
  cases hreply
  rfl

/-- The range of a centred sample (R19). -/
theorem sample_bounds (v : BitVec 8) : -128 ≤ v.toInt ∧ v.toInt ≤ 127 := by
  have hlo := v.le_toInt
  have hhi := v.toInt_lt
  omega

/-- A sample without chroma: each numerator of R88 is a multiple of its denominator. -/
theorem integerPixel_grey (luma : Int) :
    integerPixel luma 0 0 = ⟨channelInt luma, channelInt luma, channelInt luma⟩ := by
  simp [integerPixel]

/-! ## R90 (e), channel by channel -/

variable {luma luma' uc uc' vc vc' : Int}

theorem integerPixel_r_mono (hl : luma ≤ luma') (hv : vc ≤ vc') :
    (integerPixel luma uc vc).r.toNat ≤ (integerPixel luma' uc' vc').r.toNat :=
  channelInt_toNat_mono (Int.ediv_le_ediv (by decide) (by omega))

theorem integerPixel_g_mono (hl : luma ≤ luma') (hu : uc' ≤ uc) (hv : vc' ≤ vc) :
    (integerPixel luma uc vc).g.toNat ≤ (integerPixel luma' uc' vc').g.toNat :=
  channelInt_toNat_mono (Int.ediv_le_ediv (by decide) (by omega))

theorem integerPixel_b_mono (hl : luma ≤ luma') (hu : uc ≤ uc') :
    (integerPixel luma uc vc).b.toNat ≤ (integerPixel luma' uc' vc').b.toNat :=
  channelInt_toNat_mono (Int.ediv_le_ediv (by decide) (by omega))

end Sys2Proof.Machine

namespace Sys2Proof.Proofs

open Sys2Proof.Machine

/-- Settles O36: the integer form of CONVERT, and the bounds its samples give the numerators. -/
theorem convertEqualsTheIntegerForm : Obligations.ConvertEqualsTheIntegerForm := by
  intro yc uc vc s
  have hy := sample_bounds yc
  have hu := sample_bounds uc
  have hv := sample_bounds vc
  refine ⟨exec_convert yc uc vc s, ?_⟩
  omega

/-- Settles O35: in [0, 255] a channel is the floor of its value. -/
theorem truncationTakesTheIntegerPart : Obligations.TruncationTakesTheIntegerPart := by
  intro sel s hrange
  refine ⟨channelOf s.lat.rk, channelOf s.lat.gk, channelOf s.lat.bk, rfl, fun q c hmem => ?_⟩
  obtain ⟨hq, rfl⟩ := mem_and_eq_of_mem_map_graph (f := channelOf) (l := [s.lat.rk, s.lat.gk, s.lat.bk]) hmem
  obtain ⟨h0, h1⟩ := hrange q hq
  have hnat : ((channelOf q).toNat : Rat) = ⌊q⌋ := by exact_mod_cast channelOf_toNat h0 h1
  rw [hnat]
  exact ⟨Int.floor_le q, Int.lt_floor_add_one q⟩

/-- Settles O37: without chroma every channel is the luma, which the clamp leaves; the other sample is computed. -/
theorem greySampleConvertsToItsLuma : Obligations.GreySampleConvertsToItsLuma := by
  intro yc s
  refine ⟨⟨channelInt (yc.toInt + 128), ?luma, ?grey⟩, ?zeroBytes⟩
  case luma =>
    obtain ⟨hlo, hhi⟩ := sample_bounds yc
    rw [channelInt_toNat, clampInt_of_mem (by omega) (by omega)]
  case grey =>
    rw [← integerPixel_grey]
    exact exec_convert yc 0#8 0#8 s
  case zeroBytes =>
    have hpixel : integerPixel ((-128#8).toInt + 128) (-128#8).toInt (-128#8).toInt = ⟨0#8, 124#8, 0#8⟩ := by decide
    rw [exec_convert, hpixel]

/-- Settles O38: after the clamp, truncation and floor give one channel. -/
theorem truncatingFirstGivesTheSamePixel : Obligations.TruncatingFirstGivesTheSamePixel := by
  intro yc uc vc s
  have hpixel := latPixel_convertLat_floor { s.lat with yc := yc.toInt, uc := uc.toInt, vc := vc.toInt }
  rw [channelInt_truncRat, channelInt_truncRat, channelInt_truncRat, ← hpixel]
  rfl

/-- Settles O39, from the monotonicity of each channel of the integer form. -/
theorem conversionIsMonotone : Obligations.ConversionIsMonotone := by
  intro s t t' yc yc' uc uc' vc vc' p p' hexec hreply hexec' hreply' hyc
  have hluma : yc.toInt + 128 ≤ yc'.toInt + 128 := by omega
  rw [pixel_of_exec_convert hexec hreply, pixel_of_exec_convert hexec' hreply']
  exact ⟨integerPixel_r_mono hluma, integerPixel_g_mono hluma, integerPixel_b_mono hluma⟩

/-- Settles O30: the coefficient is that of R58. -/
theorem redCombination : Obligations.RedCombination := fun _ _ => rfl

/-- Settles O31: the coefficients are those of R58. -/
theorem greenCombination : Obligations.GreenCombination := fun _ _ => rfl

/-- Settles O32: the coefficient is that of R58. -/
theorem blueCombination : Obligations.BlueCombination := fun _ _ => rfl

/-- Settles O33: the bias is that of R58. -/
theorem biasAdds128 : Obligations.BiasAdds128 := fun _ _ => rfl

/-- Settles O34: each channel is the clamp of its value, in the three ranges. -/
theorem clampSaturatesEachChannel : Obligations.ClampSaturatesEachChannel := by
  intro sel s
  refine ⟨clampRat s.lat.rs 0 255, clampRat s.lat.gs 0 255, clampRat s.lat.bs 0 255, rfl, fun q k hmem => ?_⟩
  obtain ⟨-, rfl⟩ :=
    mem_and_eq_of_mem_map_graph (f := (clampRat · 0 255)) (l := [s.lat.rs, s.lat.gs, s.lat.bs]) hmem
  exact ⟨clampRat_of_lt, clampRat_of_gt, clampRat_of_mem⟩

end Sys2Proof.Proofs
end

section
/-! A store and the PIX of a position (spec/42_raster_decoder.md R105, R107, R109, R110): the cell it writes and the
cells it leaves, and the statements about them (O18, O40, O43). -/

namespace Sys2Proof.Machine

variable {s : State} {x y : Nat}

/-- A store leaves the cell of every other position. -/
theorem cell_store_other (p : Pixel) (hx : x < s.cfgW.toNat) (hy : y < s.cfgH.toNat) {x' y' : Nat}
    (hne : (x', y') ≠ (x, y)) :
    State.cell { s with raster := assocWrite s.raster (s.cellIndex x y) p } x' y' = s.cell x' y' := by
  rw [cell_store s p ((inRaster_iff ..).2 ⟨hx, hy⟩), if_neg (by simpa using hne)]

/-- The pixel a PIX stores and its place do not depend on what the raster holds. -/
theorem exec_pix_with_raster {x : BitVec 10} {y : BitVec 9} (r : Raster) (he : s.status ≠ .error)
    (hx : x.toNat < s.cfgW.toNat) (hy : y.toNat < s.cfgH.toNat)
    (hlen : closedOffset s.cfgW.toNat s.cfgH.toNat x.toNat y.toNat + 4 ≤ s.len.toNat) :
    exec (pixVariant (selNumber x.toNat y.toNat) x y) { s with raster := r } = .next { s with
      raster := assocWrite r (s.cellIndex x.toNat y.toNat) (closedPixel s x.toNat y.toNat) } := by
  rw [← closedPixel_congr (s := s) (t := { s with raster := r }) rfl rfl rfl]
  exact exec_pix_of_ok (s := { s with raster := r }) he hx hy hlen

/-- Pixels of different positions have different cell indexes, also where the operands are bit vectors. -/
theorem cellIndex_toNat_ne {x x' : BitVec 10} {y y' : BitVec 9} (hne : (x, y) ≠ (x', y'))
    (hx : x.toNat < s.cfgW.toNat) (hx' : x'.toNat < s.cfgW.toNat) :
    s.cellIndex x.toNat y.toNat ≠ s.cellIndex x'.toNat y'.toNat := by
  intro heq
  obtain ⟨hxx, hyy⟩ := cellIndex_inj s hx hx' heq
  exact hne (Prod.ext (BitVec.eq_of_toNat_eq hxx) (BitVec.eq_of_toNat_eq hyy))

end Sys2Proof.Machine

namespace Sys2Proof.Proofs

open Sys2Proof.Machine

/-- Settles O18: RD.STORE is the store at the position the transient values name. -/
theorem storeWritesTheCellOfItsPosition : Obligations.StoreWritesTheCellOfItsPosition := by
  intro r g b s hx hy
  exact ⟨_, storePixel_of_inRaster ⟨r, g, b⟩ ((inRaster_iff ..).2 ⟨hx, hy⟩), rfl, cell_store_same _ hx hy,
    fun _ _ hne => cell_store_other _ hx hy hne⟩

/-- Settles O40: in bounds a PIX is the store of its closed-form pixel. -/
theorem pixStoresTheClosedFormPixel : Obligations.PixStoresTheClosedFormPixel := by
  intro s x y he hx hy hlen
  exact ⟨_, exec_pix_of_ok he hx hy hlen, rfl, cell_store_same _ hx hy,
    fun _ _ hne => cell_store_other _ hx hy hne⟩

/-- Settles O43: neither PIX reads the raster, and their two writes are at different keys. -/
theorem pixOperationsOfDifferentPixelsCommute : Obligations.PixOperationsOfDifferentPixelsCommute := by
  intro s x x' y y' hne he hwf hx hy hx' hy' hlen hlen'
  refine ⟨_, _, _, exec_pix_of_ok he hx hy hlen, exec_pix_with_raster _ he hx' hy' hlen',
    exec_pix_of_ok he hx' hy' hlen', ?_⟩
  rw [assocWrite_comm hwf (cellIndex_toNat_ne hne hx hx')]
  exact exec_pix_with_raster _ he hx hy hlen

end Sys2Proof.Proofs
end

section
/-! RD.NEXT (spec/42_raster_decoder.md R106): the PIX of the position the free choice draws, which leaves PEND, and the
statements about it (O19, O20; log 5). -/

namespace Sys2Proof.Machine

variable {s : State} {p : Pos}

/-- Every position of the raster fits the operands of a PIX (R13: 10 bits for `x`, 9 for `y`). -/
theorem exec_pix_of_pos (hx : p.x < s.cfgW.toNat) (hy : p.y < s.cfgH.toNat) :
    exec (pixVariant (selNumber p.x p.y) (BitVec.ofNat 10 p.x) (BitVec.ofNat 9 p.y)) s =
      runPixel (selOf p.x p.y) p.x p.y s := by
  have hx10 : (BitVec.ofNat 10 p.x).toNat = p.x := Nat.mod_eq_of_lt (hx.trans s.cfgW.isLt)
  have hy9 : (BitVec.ofNat 9 p.y).toNat = p.y := Nat.mod_eq_of_lt (hy.trans s.cfgH.isLt)
  rw [exec_pixVariant (selNumber_lt ..), hx10, hy9]
  rfl

/-- In bounds and outside ERROR the pixel operation of a position stores its closed-form pixel. -/
theorem runPixel_selOf_of_ok {x y : Nat} (he : s.status ≠ .error) (hx : x < s.cfgW.toNat) (hy : y < s.cfgH.toNat)
    (hlen : closedOffset s.cfgW.toNat s.cfgH.toNat x y + 4 ≤ s.len.toNat) :
    runPixel (selOf x y) x y s = .next { s with
      raster := assocWrite s.raster (s.cellIndex x y) (closedPixel s x y) } := by
  rw [← latPixel_addressLat]
  exact runPixel_of_ok he ((inRaster_iff ..).2 ⟨hx, hy⟩) ((offsetOk_addressLat_iff ..).2 hlen)

theorem choiceIndex_lt (hpend : s.pend ≠ []) : s.choiceIndex < s.pend.length :=
  Nat.mod_lt _ (List.length_pos_iff.2 hpend)

/-- While BUSY RD.NEXT runs the pixel operation of the drawn position and takes it out of PEND. -/
theorem exec_rdNext_of_drawn (hbusy : s.status = .busy) (hdraw : s.pend[s.choiceIndex]? = some p) :
    exec .rdNext s = removePending s.choiceIndex (runPixel (selOf p.x p.y) p.x p.y s.dropChoice) := by
  change execRdNext s = _
  simp only [execRdNext, hbusy, hdraw, if_true]

/-- Where the word of the drawn position is in bounds, RD.NEXT stores its closed-form pixel. -/
theorem exec_rdNext_of_ok (hbusy : s.status = .busy) (hdraw : s.pend[s.choiceIndex]? = some p)
    (hx : p.x < s.cfgW.toNat) (hy : p.y < s.cfgH.toNat)
    (hlen : closedOffset s.cfgW.toNat s.cfgH.toNat p.x p.y + 4 ≤ s.len.toNat) :
    exec .rdNext s = .next { s with
      choices := s.choices.tail
      raster := assocWrite s.raster (s.cellIndex p.x p.y) (closedPixel s p.x p.y)
      pend := s.pend.eraseIdx s.choiceIndex } := by
  have he : s.dropChoice.status ≠ .error := by simp [hbusy]
  rw [exec_rdNext_of_drawn hbusy hdraw, runPixel_selOf_of_ok he hx hy hlen,
    closedPixel_congr (s := s) rfl rfl rfl]
  rfl

/-- The free choice that draws a wanted pending position: its own index. -/
theorem choiceIndex_idxOf (hmem : p ∈ s.pend) :
    State.choiceIndex { s with choices := [s.pend.idxOf p] } = s.pend.idxOf p :=
  Nat.mod_eq_of_lt (List.idxOf_lt_length_iff.2 hmem)

end Sys2Proof.Machine

namespace Sys2Proof.Proofs

open Sys2Proof.Machine

/-- Settles O19: the position at the drawn index is pending, and both sides run its pixel operation. -/
theorem nextRunsPixOnAPendingPosition : Obligations.NextRunsPixOnAPendingPosition := by
  intro s hbusy hpend hall
  have hdraw := List.getElem?_eq_getElem (choiceIndex_lt hpend)
  obtain ⟨hx, hy, hlen⟩ := hall _ (List.getElem_mem (choiceIndex_lt hpend))
  have he : s.dropChoice.status ≠ .error := by simp [hbusy]
  exact ⟨s.choiceIndex, _, _, hdraw,
    (exec_pix_of_pos (s := s.dropChoice) hx hy).trans (runPixel_selOf_of_ok he hx hy hlen), rfl,
    exec_rdNext_of_ok hbusy hdraw hx hy hlen⟩

/-- Settles O20: the free choice is the index of the wanted position. -/
theorem nextCanTakeAnyPendingPosition : Obligations.NextCanTakeAnyPendingPosition := by
  intro s p hbusy hmem hx hy hlen
  have hindex := choiceIndex_idxOf hmem
  have hdraw : s.pend[State.choiceIndex { s with choices := [s.pend.idxOf p] }]? = some p := by
    rw [hindex, List.getElem?_idxOf hmem]
  refine ⟨[s.pend.idxOf p], _,
    exec_rdNext_of_ok (s := { s with choices := [s.pend.idxOf p] }) hbusy hdraw hx hy hlen, ?erased, hbusy,
    cell_store_same _ hx hy, fun _ _ hne => cell_store_other _ hx hy hne⟩
  case erased =>
    rw [hindex, List.eraseIdx_idxOf_eq_erase]

end Sys2Proof.Proofs
end

section
/-! The index function of the hardwired dimensions and its inverse (spec/42_raster_decoder.md R108), and the statement
about it (O45). -/

namespace Sys2Proof.Machine

/-- A word address and a parity belong to one position. -/
theorem closedOffset_parity_inj {x y x' y' : Nat} (hx : x < 720) (hy : y < 480) (hx' : x' < 720) (hy' : y' < 480)
    (hoff : closedOffset 720 480 x y = closedOffset 720 480 x' y') (hpar : x % 2 = x' % 2) : x = x' ∧ y = y' := by
  rw [closedOffset_hardwired, closedOffset_hardwired] at hoff
  omega

/-- The position R108 gives for the word numbered by plane, row pair and column pair has that address. -/
theorem closedOffset_inverse {p row col par : Nat} (hp : p < 2) (hpar : par < 2) :
    closedOffset 720 480 (2 * col + par) (2 * row + p) = 345600 * p + 1440 * row + 4 * col := by
  rw [closedOffset_hardwired]
  omega

end Sys2Proof.Machine

namespace Sys2Proof.Proofs

open Sys2Proof.Machine

/-- Settles O45: the inverse splits an address into plane, row pair and column pair, and the index function puts them
together again; it is injective at each parity. -/
theorem indexFunctionIsABijection : Obligations.IndexFunctionIsABijection := by
  refine ⟨fun x y hx hy => ?range, fun off par halign hmax hpar => ?inverse⟩
  case range =>
    rw [closedOffset_hardwired]
    omega
  case inverse =>
    intro p x y
    have hp : p = 0 ∧ off < 345600 ∨ p = 1 ∧ 345600 ≤ off := by
      rcases lt_or_ge off 345600 with hplane | hplane
      · exact .inl ⟨if_neg hplane.not_ge, hplane⟩
      · exact .inr ⟨if_pos hplane, hplane⟩
    have hx : x < 720 := by omega
    have hy : y < 480 := by omega
    have hoff : closedOffset 720 480 x y = off := by
      refine (closedOffset_inverse (by omega) hpar).trans ?_
      omega
    have hxpar : x % 2 = par := by omega
    exact ⟨hx, hy, hoff, hxpar, fun x' y' hx' hy' hoff' hpar' =>
      closedOffset_parity_inj hx' hy' hx hy (hoff'.trans hoff.symm) (hpar'.trans hxpar.symm)⟩

end Sys2Proof.Proofs
end

section
/-! The decoder's move with nothing at the port and at `turn` (spec/42_raster_decoder.md R106,
spec/60_exceptions.md R147), and the statement about it (O6). -/

namespace Sys2Proof.Machine

variable {s : State} {rest : List Event}

theorem step_of_port_nil (hport : s.port = []) : step s = decoderStep s := by
  simp only [step, hport]

theorem step_turn (hport : s.port = .turn :: rest) : step s = decoderStep { s with port := rest } := by
  simp only [step, hport]

/-- The one enabled move of the decoder in each state. -/
theorem decoderStep_enabled (s : State) :
    (s.status = .busy → s.pend ≠ [] → decoderStep s = exec .rdNext s) ∧
      (s.status = .busy → s.pend = [] → decoderStep s = exec .cmdDone s) ∧
      (s.status ≠ .busy → decoderStep s = .next s) :=
  ⟨decoderStep_of_pending, decoderStep_of_none_pending, decoderStep_idle⟩

end Sys2Proof.Machine

namespace Sys2Proof.Proofs

open Sys2Proof.Machine

/-- Settles O6: in both cases the step is the decoder's move. -/
theorem decoderTakesItsEnabledStep : Obligations.DecoderTakesItsEnabledStep := by
  intro s rest
  refine ⟨fun hport => ?empty, fun hport => ?turn⟩
  case empty =>
    rw [step_of_port_nil hport]
    exact decoderStep_enabled s
  case turn =>
    rw [step_turn hport]
    exact decoderStep_enabled { s with port := rest }

end Sys2Proof.Proofs
end

section
/-! The row, column and offset operations (spec/42_raster_decoder.md R100 to R104), each on the parity its rule speaks
of, and the statements about them (O12 to O15, O17). -/

namespace Sys2Proof.Machine

theorem oddRowIdx_of_odd {y : Nat} (hy : y % 2 = 1) : oddRowIdx y = (y - 1) / 2 := if_neg (by omega)

theorem oddPairOff_of_odd {x : Nat} (hx : x % 2 = 1) : oddPairOff x = (x - 1) * 2 := if_neg (by omega)

end Sys2Proof.Machine

namespace Sys2Proof.Proofs

open Sys2Proof.Machine

/-- Settles O12: RD.ROW.P0 computes its rule whatever the row (log 15). -/
theorem rowAddressOfAnEvenRow : Obligations.RowAddressOfAnEvenRow := fun _ _ _ => rfl

/-- Settles O13: an odd row is not 0, where the row index is free. -/
theorem rowAddressOfAnOddRow : Obligations.RowAddressOfAnOddRow := by
  intro cp s hy
  rw [← oddRowIdx_of_odd hy]
  rfl

/-- Settles O14: RD.COL.E computes its rule whatever the column (log 15). -/
theorem wordOffsetOfAnEvenColumn : Obligations.WordOffsetOfAnEvenColumn := fun _ _ _ => rfl

/-- Settles O15: an odd column is not 0, where the pair offset is free. -/
theorem wordOffsetOfAnOddColumn : Obligations.WordOffsetOfAnOddColumn := by
  intro rp s hx
  rw [← oddPairOff_of_odd hx]
  rfl

/-- Settles O17. -/
theorem offsetIsBasePlusPairOffset : Obligations.OffsetIsBasePlusPairOffset := fun _ _ => rfl

end Sys2Proof.Proofs
end

section
/-! The host's commands (spec/43_command_interface.md R120 to R123, R127, spec/30_encoding.md R61): one equation for
each case of a command, and the statements about them (O48, O50 to O53). -/

namespace Sys2Proof.Machine

variable {s : State}

/-! ## CMD.START and CMD.DONE -/

/-- A running decode is not restarted (R127, log 11). -/
theorem execCmdStart_of_busy (h : s.status = .busy) (len : BitVec 32) :
    execCmdStart len s = .refused .startWhileBusy := if_pos h

theorem State.Hardwired.w (hhw : s.Hardwired) : s.w = 720 := congrArg BitVec.toNat hhw.1

theorem State.Hardwired.h (hhw : s.Hardwired) : s.h = 480 := congrArg BitVec.toNat hhw.2

/-- R5 admits the hardwired dimensions. -/
theorem State.Hardwired.dimensionsOk (hhw : s.Hardwired) : s.dimensionsOk = true := by
  rw [State.dimensionsOk, hhw.w, hhw.h]
  decide

/-- `FRAME_BYTES` of the hardwired dimensions (R4). -/
theorem State.Hardwired.frameBytes (hhw : s.Hardwired) : s.frameBytes = (691200#32).toNat := by
  rw [State.frameBytes, hhw.w, hhw.h]
  decide

/-- The right length begins a decode (R120). -/
theorem execCmdStart_of_frame_length (hhw : s.Hardwired) (h : s.status ≠ .busy) :
    execCmdStart 691200#32 s =
      .next { s with
        len := 691200#32, errcode := .none, raster := [], pend := allPositions 720 480, status := .busy } := by
  rw [execCmdStart_of_not_busy h, if_neg (by simp [hhw.dimensionsOk]), if_pos hhw.frameBytes.symm, hhw.w, hhw.h]
  rfl

/-- The right length makes exactly the positions of the raster pending, once each (R120, R18). -/
theorem exists_pend_of_frame_length (hhw : s.Hardwired) (h : s.status ≠ .busy) :
    ∃ p, execCmdStart 691200#32 s =
        .next { s with len := 691200#32, errcode := .none, raster := [], pend := p, status := .busy } ∧
      p.Nodup ∧ p.length = 345600 ∧ ∀ q : Pos, q ∈ p ↔ q.x < 720 ∧ q.y < 480 :=
  ⟨_, execCmdStart_of_frame_length hhw h, allPositions_nodup 720 480, allPositions_length 720 480,
    mem_allPositions 720 480⟩

/-- Every other length raises ErrLength (R120). -/
theorem execCmdStart_of_other_length (hhw : s.Hardwired) (h : s.status ≠ .busy) {len : BitVec 32}
    (hlen : len ≠ 691200#32) : execCmdStart len s = .next (raise .length (beginDecode len s)) := by
  have hne : len.toNat ≠ s.frameBytes := by
    rw [hhw.frameBytes]
    exact fun heq => hlen (BitVec.eq_of_toNat_eq heq)
  rw [execCmdStart_of_not_busy h, if_neg (by simp [hhw.dimensionsOk]), if_neg hne]

theorem execCmdDone_of_enabled (hbusy : s.status = .busy) (hpend : s.pend = []) :
    execCmdDone s = .next { s with status := .done } := if_pos ⟨hbusy, hpend⟩

/-! ## CMD.RDPIX -/

variable {x y : Nat}

/-- At DONE a cell with a value is handed over. -/
theorem readCell_of_done {p : Pixel} (hdone : s.status = .done) (hcell : s.cell x y = some p) :
    readCell x y s = (p, s) := by
  simp only [readCell, hdone, hcell]

/-- Every other read is a free draw (log 6). -/
theorem readCell_of_free (h : s.status ≠ .done ∨ s.cell x y = none) :
    readCell x y s = (Config.freePixel s.draws, { s with draws := s.draws + 1 }) := by
  unfold readCell
  split
  case h_1 p hdone hcell =>
    rcases h with h | h
    · exact absurd hdone h
    · rw [hcell] at h; cases h
  case h_2 => rfl

theorem execCmdRdpix_of_inRaster {x : BitVec 10} {y : BitVec 9} (hin : s.inRaster x.toNat y.toNat = true) :
    execCmdRdpix x y s =
      .next { (readCell x.toNat y.toNat s).2 with reply := .pixel (readCell x.toNat y.toNat s).1 } := if_pos hin

theorem execCmdRdpix_of_not_inRaster {x : BitVec 10} {y : BitVec 9} (hout : ¬ s.inRaster x.toNat y.toNat = true) :
    execCmdRdpix x y s = .refused .rdpixOutOfRange := if_neg hout

end Sys2Proof.Machine

namespace Sys2Proof.Proofs

open Sys2Proof.Machine

/-- Settles O48, from the two outcomes of the length test. -/
theorem startChecksTheLength : Obligations.StartChecksTheLength := by
  intro s hhw hidle
  refine ⟨?frameLength, fun len hlen => ?otherLength⟩
  case frameLength =>
    obtain ⟨p, hexec, hnodup, hlength, hmem⟩ := exists_pend_of_frame_length hhw hidle
    exact ⟨_, hexec, rfl, cell_eq_none_of_raster_nil rfl, hnodup, hlength, hmem⟩
  case otherLength =>
    exact ⟨_, execCmdStart_of_other_length hhw hidle hlen, rfl, cell_eq_none_of_raster_nil rfl⟩

/-- Settles O50: DECODE begins with a CMD.START, which is refused while BUSY. -/
theorem startWhileBusyAndTheReservedCodeAreRefused : Obligations.StartWhileBusyAndTheReservedCodeAreRefused := by
  intro s
  refine ⟨fun len hbusy => execCmdStart_of_busy hbusy len, fun n hbusy => ?decode, rfl⟩
  case decode =>
    change execDecodeFrame n s = _
    rw [execDecodeFrame, execCmdStart_of_busy hbusy]

/-- Settles O51: CMD.DONE is enabled there. -/
theorem doneEndsTheDecodeWhenNothingIsPending : Obligations.DoneEndsTheDecodeWhenNothingIsPending :=
  fun _ hbusy hpend => ⟨_, execCmdDone_of_enabled hbusy hpend, rfl, rfl⟩

/-- Settles O52. -/
theorem statusReturnsStateAndError : Obligations.StatusReturnsStateAndError := fun _ => rfl

/-- Settles O53: in range the answer is the read of the cell, in its two cases. -/
theorem readPixelReturnsTheCellAtDone : Obligations.ReadPixelReturnsTheCellAtDone := by
  intro s x y
  refine ⟨fun hx hy => ?inside, fun hout => ?outside⟩
  case inside =>
    have hexec := execCmdRdpix_of_inRaster ((inRaster_iff s x.toNat y.toNat).2 ⟨hx, hy⟩)
    refine ⟨fun p hdone hcell => ?cell, fun hfree => ⟨Config.freePixel s.draws, ?free⟩⟩
    case cell =>
      rw [readCell_of_done hdone hcell] at hexec
      exact hexec
    case free =>
      rw [readCell_of_free hfree] at hexec
      exact hexec
  case outside =>
    exact execCmdRdpix_of_not_inRaster (mt (inRaster_iff s x.toNat y.toNat).1 hout)

end Sys2Proof.Proofs
end

section
/-! A running decode (spec/42_raster_decoder.md R106, R110, spec/43_command_interface.md R121, R125): whatever the free
choices, each RD.NEXT finishes one cell, and where nothing is pending every cell is final; and the statement about
DECODE (O54). -/

namespace Sys2Proof.Machine

variable {s : State}

/-! ## The invariant of a running decode -/

/-- A decode of the right length is running, and its cells are final except those of the pending positions, which are
empty (R39). -/
structure State.Decoding (s : State) : Prop where
  hardwired : s.Hardwired
  busy : s.status = .busy
  len : s.len = 691200#32
  pendIn : ∀ p ∈ s.pend, p.x < 720 ∧ p.y < 480
  pendNodup : s.pend.Nodup
  cells : ∀ x y, x < 720 → y < 480 →
    s.cell x y = if (⟨x, y⟩ : Pos) ∈ s.pend then none else some (closedPixel s x y)

/-- The state a CMD.START of the right length leaves (R120). -/
theorem decoding_of_start (hhw : s.Hardwired) (hbusy : s.status = .busy) (hlen : s.len = 691200#32)
    (hraster : s.raster = []) (hnodup : s.pend.Nodup) (hpend : ∀ p : Pos, p ∈ s.pend ↔ p.x < 720 ∧ p.y < 480) :
    s.Decoding where
  hardwired := hhw
  busy := hbusy
  len := hlen
  pendIn := fun p hp => (hpend p).1 hp
  pendNodup := hnodup
  cells := fun x y hx hy => by
    rw [if_pos ((hpend ⟨x, y⟩).2 ⟨hx, hy⟩)]
    exact cell_eq_none_of_raster_nil hraster x y

/-- No address of the raster is out of bounds (R133). -/
theorem State.Decoding.inBounds (hdec : s.Decoding) {x y : Nat} (hx : x < 720) (hy : y < 480) :
    x < s.cfgW.toNat ∧ y < s.cfgH.toNat ∧ closedOffset s.cfgW.toNat s.cfgH.toNat x y + 4 ≤ s.len.toNat := by
  obtain ⟨hw, hh⟩ := hdec.hardwired
  rw [hw, hh, hdec.len]
  refine ⟨hx, hy, ?_⟩
  change closedOffset 720 480 x y + 4 ≤ 691200
  rw [closedOffset_hardwired]
  omega

/-- The RD.NEXT that draws `p` makes the cell of `p` final and leaves every other cell. -/
theorem State.Decoding.store (hdec : s.Decoding) {p : Pos} (hmem : p ∈ s.pend) (c : List Nat) :
    State.Decoding { s with
      choices := c
      raster := assocWrite s.raster (s.cellIndex p.x p.y) (closedPixel s p.x p.y)
      pend := s.pend.erase p } where
  hardwired := hdec.hardwired
  busy := hdec.busy
  len := hdec.len
  pendIn := fun q hq => hdec.pendIn q (List.mem_of_mem_erase hq)
  pendNodup := hdec.pendNodup.erase p
  cells := fun x y hx hy => by
    obtain ⟨hpx, hpy⟩ := hdec.pendIn p hmem
    obtain ⟨hpw, hph, -⟩ := hdec.inBounds hpx hpy
    change State.cell { s with raster := assocWrite s.raster (s.cellIndex p.x p.y) (closedPixel s p.x p.y) } x y =
      if (⟨x, y⟩ : Pos) ∈ s.pend.erase p then none else some (closedPixel s x y)
    by_cases heq : (⟨x, y⟩ : Pos) = p
    · subst heq
      rw [cell_store_same _ hpw hph, if_neg hdec.pendNodup.not_mem_erase]
    · have hne : (x, y) ≠ (p.x, p.y) := fun h => heq (by cases h; rfl)
      rw [cell_store_other _ hpw hph hne, hdec.cells x y hx hy]
      simp only [List.mem_erase_of_ne heq]

/-- One RD.NEXT of a running decode completes, whatever the free choice, and takes one position out of PEND. -/
theorem State.Decoding.next (hdec : s.Decoding) (hpend : s.pend ≠ []) :
    ∃ c r p, exec .rdNext s = .next { s with choices := c, raster := r, pend := p } ∧
      State.Decoding { s with choices := c, raster := r, pend := p } ∧ p.length + 1 = s.pend.length := by
  have hlt := choiceIndex_lt hpend
  have hmem := List.getElem_mem hlt
  obtain ⟨hx, hy⟩ := hdec.pendIn _ hmem
  obtain ⟨hxw, hyh, hlen⟩ := hdec.inBounds hx hy
  have hexec := exec_rdNext_of_ok hdec.busy (List.getElem?_eq_getElem hlt) hxw hyh hlen
  rw [← hdec.pendNodup.erase_getElem _ hlt] at hexec
  refine ⟨_, _, _, hexec, hdec.store hmem _, ?_⟩
  rw [List.length_erase_of_mem hmem]
  omega

/-! ## The whole decode -/

/-- Every cell of the raster is final and handed over (R121, R110). -/
structure State.Decoded (s : State) : Prop where
  hardwired : s.Hardwired
  done : s.status = .done
  cells : ∀ x y, x < 720 → y < 480 → s.cell x y = some (closedPixel s x y)

theorem State.Decoding.done (hdec : s.Decoding) (hpend : s.pend = []) :
    State.Decoded { s with status := .done } where
  hardwired := hdec.hardwired
  done := rfl
  cells := fun x y hx hy => by
    rw [cell_with_status, hdec.cells x y hx hy, if_neg (by simp [hpend])]
    rfl

/-- WAIT ends where ST is not BUSY (R63). -/
theorem runDecoder_of_not_busy (h : s.status ≠ .busy) : ∀ n, runDecoder n s = .next s
  | 0 => rfl
  | _ + 1 => if_neg h

theorem runDecoder_succ {t : State} (hbusy : s.status = .busy) (hstep : decoderStep s = .next t) (n : Nat) :
    runDecoder (n + 1) s = runDecoder n t := by
  rw [runDecoder, if_pos hbusy, hstep]

/-- A running decode ends within one move for each pending position and the CMD.DONE (R158). -/
theorem State.Decoding.run (n : Nat) {s : State} (hdec : s.Decoding) (hn : s.pend.length < n) :
    ∃ c r, runDecoder n s = .next { s with choices := c, raster := r, pend := [], status := .done } ∧
      State.Decoded { s with choices := c, raster := r, pend := [], status := .done } := by
  induction n generalizing s with
  | zero => omega
  | succ n ih =>
    by_cases hpend : s.pend = []
    · have hstep : decoderStep s = .next { s with status := .done } :=
        (decoderStep_of_none_pending hdec.busy hpend).trans (execCmdDone_of_enabled hdec.busy hpend)
      have hstate : ({ s with status := .done } : State) =
          { s with choices := s.choices, raster := s.raster, pend := [], status := .done } := by rw [← hpend]
      refine ⟨s.choices, s.raster, ?_, hstate ▸ hdec.done hpend⟩
      rw [runDecoder_succ hdec.busy hstep, runDecoder_of_not_busy (by simp), hstate]
    · obtain ⟨c, r, p, hexec, hdec', hlen⟩ := hdec.next hpend
      obtain ⟨c', r', hrun, hdone⟩ := ih hdec' (show p.length < n by omega)
      refine ⟨c', r', ?_, hdone⟩
      rw [runDecoder_succ hdec.busy ((decoderStep_of_pending hdec.busy hpend).trans hexec), hrun]

/-! ## What DECODE returns -/

/-- Reads of cells with values at DONE change nothing (R123). -/
theorem readCells_of_done {f : Pos → Pixel} (hdone : s.status = .done) (ps : List Pos)
    (hcells : ∀ p ∈ ps, s.cell p.x p.y = some (f p)) : readCells ps s = (ps.map f, s) := by
  induction ps with
  | nil => rfl
  | cons p ps ih =>
    obtain ⟨hp, hps⟩ := List.forall_mem_cons.1 hcells
    simp only [readCells, readCell_of_done hdone hp, ih hps, List.map_cons]

/-- After a complete decode DECODE returns the closed-form pixels, row-major (R125). -/
theorem State.Decoded.decodeReply (hdec : s.Decoded) :
    decodeReply s = { s with reply := .raster ((allPositions 720 480).map fun p => closedPixel s p.x p.y) } := by
  have hcells (p : Pos) (hp : p ∈ allPositions 720 480) : s.cell p.x p.y = some (closedPixel s p.x p.y) := by
    obtain ⟨hx, hy⟩ := (mem_allPositions 720 480 p).1 hp
    exact hdec.cells p.x p.y hx hy
  rw [Machine.decodeReply, if_pos hdec.done, hdec.hardwired.w, hdec.hardwired.h,
    readCells_of_done (f := fun p => closedPixel s p.x p.y) hdec.done _ hcells]

/-- Where the decode of a DECODE did not reach DONE, it returns the error (R125). -/
theorem decodeReply_of_not_done (h : s.status ≠ .done) : decodeReply s = { s with reply := .error s.errcode } :=
  if_neg h

/-- DECODE is CMD.START, then WAIT, then the reply (R63). -/
theorem execDecodeFrame_of_run {n : BitVec 32} {t u : State} (hstart : execCmdStart n s = .next t)
    (hrun : runDecoder (s.w * s.h + 1) t = .next u) : execDecodeFrame n s = .next (decodeReply u) := by
  rw [execDecodeFrame, hstart]
  simp only [hrun]

end Sys2Proof.Machine

namespace Sys2Proof.Proofs

open Sys2Proof.Machine

/-- Settles O54: the right length runs the decode to its end; any other ends in ERROR, where WAIT is over at once. -/
theorem decodeReturnsTheClosedFormRaster : Obligations.DecodeReturnsTheClosedFormRaster := by
  intro n s hhw hidle
  refine ⟨?frame, fun hn => ?otherLength⟩
  case frame =>
    rintro rfl
    obtain ⟨p, hstart, hnodup, hlength, hmem⟩ := exists_pend_of_frame_length hhw hidle
    have hfuel : p.length < s.w * s.h + 1 := by
      rw [hlength, hhw.w, hhw.h]
      decide
    have hdec : State.Decoding { s with
        len := 691200#32, errcode := .none, raster := [], pend := p, status := .busy } :=
      decoding_of_start hhw rfl rfl rfl hnodup hmem
    obtain ⟨c, r, hrun, hdone⟩ := hdec.run _ hfuel
    have hexec := execDecodeFrame_of_run hstart hrun
    rw [hdone.decodeReply] at hexec
    exact ⟨_, hexec, rfl, rfl, rfl, rfl, rfl, rfl, hdone.cells⟩
  case otherLength =>
    have hexec := execDecodeFrame_of_run (execCmdStart_of_other_length hhw hidle hn)
      (runDecoder_of_not_busy (by simp) _)
    rw [decodeReply_of_not_done (by simp)] at hexec
    exact hexec

end Sys2Proof.Proofs
end

section
/-! What the invariant of a block driven by its host (spec/60_exceptions.md R133, R138, R142) needs of a state, kind of
state by kind of state: a running decode, DONE, and a raster that nothing has been written to; then what each event at
the port and each move of the decoder leaves of it, and the statement about every step (O57). -/

namespace Sys2Proof.Machine

variable {s t : State}

/-! ## What a host can command -/

/-- The host's command port takes four operations (R55, R142). -/
theorem hostCommand_of_decode {w : OpWord} {i : Instr} (hslot : w.slot = .cmd) (hdec : decode w = .ok i) :
    i = .cmdStatus ∨ (∃ len, i = .cmdStart len) ∨ (∃ x y, i = .cmdRdpix x y) ∨ i = .cmdReserved := by
  simp only [decode, hslot, decodeCmd] at hdec
  split at hdec
  · split at hdec
    · split at hdec <;> cases hdec
      exact .inl rfl
    · cases hdec
      exact .inr (.inl ⟨_, rfl⟩)
    · split at hdec <;> cases hdec
      exact .inr (.inr (.inl ⟨_, _, rfl⟩))
    · cases hdec
      exact .inr (.inr (.inr rfl))
    · cases hdec
  · cases hdec

/-! ## States that meet the invariant -/

/-- The invariant is about the block: the transient values and the model's own fields are free, but for who presents
what at the port. -/
theorem State.Inv.with_own (hinv : s.Inv) (l : Latches) (a : Reply) {p : List Event} (hp : p.all Event.fromHost = true)
    (c : List Nat) (d : Nat) :
    State.Inv { s with lat := l, reply := a, port := p, choices := c, draws := d } :=
  { hinv with hostOnly := hp }

theorem State.Inv.decoding (hinv : s.Inv) (hbusy : s.status = .busy) : s.Decoding where
  hardwired := hinv.hardwired
  busy := hbusy
  len := hinv.busyLen hbusy
  pendIn := hinv.pendIn
  pendNodup := hinv.pendNodup
  cells := hinv.busyCells hbusy

theorem State.Inv.errcode_none (hinv : s.Inv) (h : s.status ≠ .error) : s.errcode = .none := hinv.errStatus.2 h

/-- A running decode meets the invariant; what is not of the decode is said apart. -/
theorem State.Decoding.inv (hdec : s.Decoding) (hbuf : Memory.wf s.buf = true) (hwf : Raster.wf s.raster = true)
    (hin : ∀ k p, assocRead s.raster k = some p → k < 345600) (herr : s.errcode = .none)
    (hport : s.port.all Event.fromHost = true) : s.Inv where
  hardwired := hdec.hardwired
  bufWf := hbuf
  rasterWf := hwf
  rasterIn := hin
  pendIn := hdec.pendIn
  pendNodup := hdec.pendNodup
  pendBusy := fun h => absurd hdec.busy h
  busyLen := fun _ => hdec.len
  busyCells := fun _ => hdec.cells
  doneCells := by simp [hdec.busy]
  otherCells := by simp [hdec.busy]
  errStatus := by simp [herr, hdec.busy]
  noInternal := by simp [herr]
  hostOnly := hport

/-- Where no decode runs or has completed nothing is pending and no cell has a value: after reset (R25) and after
ErrLength (R138). -/
theorem inv_of_raster_nil (hhw : s.Hardwired) (hbuf : Memory.wf s.buf = true) (hraster : s.raster = [])
    (hpend : s.pend = []) (hport : s.port.all Event.fromHost = true)
    (hst : s.status = .idle ∧ s.errcode = .none ∨ s.status = .error ∧ s.errcode = .length) : s.Inv := by
  have hidle : s.status ≠ .busy := by rcases hst with ⟨hst, -⟩ | ⟨hst, -⟩ <;> simp [hst]
  have hundone : s.status ≠ .done := by rcases hst with ⟨hst, -⟩ | ⟨hst, -⟩ <;> simp [hst]
  exact {
    hardwired := hhw
    bufWf := hbuf
    rasterWf := hraster ▸ Raster.wf_empty
    rasterIn := by simp [hraster, assocRead]
    pendIn := by simp [hpend]
    pendNodup := by simp [hpend]
    pendBusy := fun _ => hpend
    busyLen := fun h => absurd h hidle
    busyCells := fun h => absurd h hidle
    doneCells := fun h => absurd h hundone
    otherCells := fun _ => hraster
    errStatus := by rcases hst with ⟨hst, herr⟩ | ⟨hst, herr⟩ <;> simp [hst, herr]
    noInternal := by rcases hst with ⟨-, herr⟩ | ⟨-, herr⟩ <;> simp [herr]
    hostOnly := hport }

/-! ## The decoder's moves -/

/-- R38 with the numbers of the hardwired dimensions. -/
theorem State.Hardwired.cellIndex_lt (hhw : s.Hardwired) {x y : Nat} (hx : x < 720) (hy : y < 480) :
    s.cellIndex x y < 345600 := by
  rw [State.cellIndex, hhw.w]
  omega

/-- A RD.NEXT of a running decode never raises (R133): it stores the pixel of a pending position. -/
theorem State.Decoding.exec_rdNext (hdec : s.Decoding) (hpend : s.pend ≠ []) :
    ∃ p ∈ s.pend, exec .rdNext s = .next { s with
      choices := s.choices.tail
      raster := assocWrite s.raster (s.cellIndex p.x p.y) (closedPixel s p.x p.y)
      pend := s.pend.erase p } := by
  have hlt := choiceIndex_lt hpend
  have hmem := List.getElem_mem hlt
  obtain ⟨hx, hy⟩ := hdec.pendIn _ hmem
  obtain ⟨hxw, hyh, hlen⟩ := hdec.inBounds hx hy
  refine ⟨_, hmem, ?_⟩
  rw [hdec.pendNodup.erase_getElem _ hlt]
  exact exec_rdNext_of_ok hdec.busy (List.getElem?_eq_getElem hlt) hxw hyh hlen

theorem State.Inv.rdNext (hinv : s.Inv) (hbusy : s.status = .busy) (hpend : s.pend ≠ [])
    (h : exec .rdNext s = .next t) : t.Inv := by
  have hdec := hinv.decoding hbusy
  obtain ⟨p, hmem, hexec⟩ := hdec.exec_rdNext hpend
  obtain ⟨hx, hy⟩ := hdec.pendIn p hmem
  rw [hexec] at h
  cases h
  refine (hdec.store hmem _).inv hinv.bufWf (Raster.wf_store _ _ _ hinv.rasterWf) (fun k q hq => ?_)
    (hinv.errcode_none (by simp [hbusy])) hinv.hostOnly
  rw [assocRead_write] at hq
  split at hq
  case isTrue hk => exact hk ▸ hinv.hardwired.cellIndex_lt hx hy
  case isFalse => exact hinv.rasterIn k q hq

/-- Where nothing is pending every cell is final, so at DONE every cell has a value (R121). -/
theorem State.Inv.cmdDone (hinv : s.Inv) (h : exec .cmdDone s = .next t) : t.Inv := by
  obtain ⟨hbusy, hpend, rfl⟩ := execCmdDone_next h
  have hdone := (hinv.decoding hbusy).done hpend
  have herr := hinv.errcode_none (by simp [hbusy])
  exact { hinv with
    pendBusy := fun _ => hpend
    busyLen := nofun
    busyCells := nofun
    doneCells := fun _ x y hx hy => ⟨_, hdone.cells x y hx hy⟩
    otherCells := by simp
    errStatus := by simp [herr] }

theorem State.Inv.decoderStep (hinv : s.Inv) (h : decoderStep s = .next t) : t.Inv := by
  by_cases hbusy : s.status = .busy
  · by_cases hpend : s.pend = []
    · exact hinv.cmdDone ((decoderStep_of_none_pending hbusy hpend).symm.trans h)
    · exact hinv.rdNext hbusy hpend ((decoderStep_of_pending hbusy hpend).symm.trans h)
  · rw [decoderStep_idle hbusy] at h
    cases h
    exact hinv

/-! ## The host's moves -/

/-- CMD.START begins a decode with every position pending and no cell written, or raises ErrLength (R120). -/
theorem State.Inv.cmdStart (hinv : s.Inv) {len : BitVec 32} (h : execCmdStart len s = .next t) : t.Inv := by
  have hidle : s.status ≠ .busy := fun hbusy => by rw [execCmdStart_of_busy hbusy] at h; cases h
  by_cases hlen : len = 691200#32
  · subst hlen
    obtain ⟨p, hexec, hnodup, -, hmem⟩ := exists_pend_of_frame_length hinv.hardwired hidle
    rw [hexec] at h
    cases h
    have hdec : State.Decoding { s with
        len := 691200#32, errcode := .none, raster := [], pend := p, status := .busy } :=
      decoding_of_start hinv.hardwired rfl rfl rfl hnodup hmem
    exact hdec.inv hinv.bufWf Raster.wf_empty (by simp [assocRead]) rfl hinv.hostOnly
  · rw [execCmdStart_of_other_length hinv.hardwired hidle hlen] at h
    cases h
    exact inv_of_raster_nil hinv.hardwired hinv.bufWf rfl rfl hinv.hostOnly (.inr ⟨rfl, rfl⟩)

theorem State.Inv.hostCommand (hinv : s.Inv) {w : OpWord} {i : Instr} (hslot : w.slot = .cmd)
    (hdec : decode w = .ok i) (h : exec i s = .next t) : t.Inv := by
  rcases hostCommand_of_decode hslot hdec with rfl | ⟨len, rfl⟩ | ⟨x, y, rfl⟩ | rfl
  · cases h
    exact hinv.with_own _ _ hinv.hostOnly _ _
  · exact hinv.cmdStart h
  · obtain ⟨-, _, _, rfl⟩ := execCmdRdpix_next h
    exact hinv.with_own _ _ hinv.hostOnly _ _
  · cases h

/-- A host write changes BUF while no decode runs, and outside a decode no cell is tied to BUF (R44). -/
theorem State.Inv.hostFill (hinv : s.Inv) {a : Nat} {bytes : List Byte} (h : hostFill a bytes s = .next t) :
    t.Inv := by
  obtain ⟨hidle, -, rfl⟩ := hostFill_next h
  exact { hinv with
    bufWf := Memory.wf_fill _ _ _ hinv.bufWf
    busyCells := fun hbusy => absurd hbusy hidle }

/-- The step rule of a reset (log 8). -/
theorem step_reset {rest : List Event} (hport : s.port = .reset :: rest) :
    step s = .next (applyReset { s with port := rest }) := by
  simp only [step, hport]

theorem State.Inv.applyReset (hinv : s.Inv) : (applyReset s).Inv :=
  inv_of_raster_nil hinv.hardwired hinv.bufWf rfl rfl hinv.hostOnly (.inl ⟨rfl, rfl⟩)

/-! ## One step -/

/-- The oldest event at the port is the host's, and taking it up keeps the invariant. -/
theorem State.Inv.take (hinv : s.Inv) {e : Event} {rest : List Event} (hport : s.port = e :: rest) :
    e.fromHost = true ∧ State.Inv { s with port := rest } := by
  have hhost := hinv.hostOnly
  rw [hport, List.all_cons, Bool.and_eq_true] at hhost
  exact ⟨hhost.1, hinv.with_own _ _ hhost.2 _ _⟩

theorem State.Inv.step (hinv : s.Inv) (h : step s = .next t) : t.Inv := by
  cases hport : s.port with
  | nil =>
    rw [step_of_port_nil hport] at h
    exact hinv.decoderStep h
  | cons e rest =>
    obtain ⟨hhost, hrest⟩ := hinv.take hport
    cases e with
    | op w =>
      cases hdec : decode w with
      | ok i =>
        rw [step_op_of_decode_ok hport hdec] at h
        exact hrest.hostCommand (by simpa [Event.fromHost] using hhost) hdec h
      | error e => rw [step_op_of_decode_error hport hdec] at h; cases h
    | operands l => cases hhost
    | fill a bytes =>
      rw [step_fill hport] at h
      exact hrest.hostFill h
    | reset =>
      rw [step_reset hport] at h
      cases h
      exact hrest.applyReset
    | wait =>
      by_cases hbusy : s.status = .busy
      · rw [step_wait_busy hport hbusy] at h
        exact hinv.decoderStep h
      · rw [step_wait_not_busy hport hbusy] at h
        cases h
        exact hrest.with_own _ _ hrest.hostOnly _ _
    | turn =>
      rw [step_turn hport] at h
      exact hrest.decoderStep h

end Sys2Proof.Machine

namespace Sys2Proof.Proofs

open Sys2Proof.Machine

/-- Settles O57, from what each event at the port and each move of the decoder keeps. -/
theorem everyStepKeepsTheInvariant : Obligations.EveryStepKeepsTheInvariant :=
  fun _ _ hinv h => hinv.step h

end Sys2Proof.Proofs
end

section
/-! R137 in the PIX of a position and in the RD.NEXT that draws it (spec/60_exceptions.md R133, R137), and the statement
about them (O41). -/

namespace Sys2Proof.Machine

variable {s : State} {x y : Nat}

/-- Beyond LEN the pixel operation of a position raises, outside ERROR (R70, R137). -/
theorem runPixel_selOf_of_beyond (he : s.status ≠ .error)
    (hlen : s.len.toNat < closedOffset s.cfgW.toNat s.cfgH.toNat x y + 4) :
    runPixel (selOf x y) x y s = .next (raise .internal s) := by
  rcases runPixel_cases (selOf x y) x y he with ⟨hok, -⟩ | ⟨-, hrun⟩
  · exact absurd ((offsetOk_addressLat_iff ..).1 hok) (Nat.not_le.2 hlen)
  · exact hrun

end Sys2Proof.Machine

namespace Sys2Proof.Proofs

open Sys2Proof.Machine

/-- Settles O41: the PIX and the RD.NEXT that draws its position run one pixel operation, which raises; after the raise
PEND is empty already. -/
theorem pixOutOfBoundsRaisesErrInternal : Obligations.PixOutOfBoundsRaisesErrInternal := by
  intro s x y he hlen
  refine ⟨?alone, fun hbusy hdraw => ?drawn⟩
  case alone =>
    rw [exec_pixVariant (selNumber_lt ..)]
    exact runPixel_selOf_of_beyond he hlen
  case drawn =>
    rw [exec_rdNext_of_drawn hbusy hdraw, runPixel_selOf_of_beyond (s := s.dropChoice) he hlen]
    rfl

end Sys2Proof.Proofs
end

section
/-! The ERROR state (spec/60_exceptions.md R139, R140): no operation that can raise runs there but CMD.START, and
DECODE, which begins with one; and the statements about it (O58, O60). -/

namespace Sys2Proof.Machine

variable {s t : State} {i : Instr}

/-- Of the operations that write the control state only CMD.START and DECODE go on in ERROR. -/
theorem start_or_decode_of_writesControl (he : s.status = .error) (hc : writesControl i = true)
    (h : exec i s = .next t) : (∃ n, i = .cmdStart n) ∨ ∃ n, i = .decodeFrame n := by
  cases i with
  | cmdStart n => exact .inl ⟨n, rfl⟩
  | decodeFrame n => exact .inr ⟨n, rfl⟩
  | bxChk | extract | pixEE | pixEO | pixOE | pixOO => exact absurd he (unlessError_next h).1
  | rdNext => rw [(execRdNext_next h).1] at he; cases he
  | cmdDone => rw [(execCmdDone_next h).1] at he; cases he
  | _ => cases hc

/-- Every other operation leaves ST and ERRCODE as they are in ERROR (R140). -/
theorem exec_keeps_error (he : s.status = .error) (hi : ∀ n, i ≠ .cmdStart n ∧ i ≠ .decodeFrame n)
    (h : exec i s = .next t) : t.status = .error ∧ t.errcode = s.errcode := by
  cases hc : writesControl i with
  | true =>
    rcases start_or_decode_of_writesControl he hc h with ⟨n, hn⟩ | ⟨n, hn⟩
    · exact absurd hn (hi n).1
    · exact absurd hn (hi n).2
  | false =>
    obtain ⟨-, -, -, -, -, -, -, -, hcontrol⟩ := ownWrites_of_exec_next h
    obtain ⟨hst, herr, -⟩ := hcontrol hc
    exact ⟨hst.trans he, herr⟩

/-- Of the host's commands only CMD.START leaves ERROR. -/
theorem cmdStart_of_leaves_error {w : OpWord} (hslot : w.slot = .cmd) (hdec : decode w = .ok i)
    (he : s.status = .error) (h : exec i s = .next t) (hleft : t.status ≠ .error) : ∃ len, i = .cmdStart len := by
  rcases hostCommand_of_decode hslot hdec with rfl | ⟨len, rfl⟩ | ⟨x, y, rfl⟩ | rfl
  case inr.inl => exact ⟨len, rfl⟩
  all_goals exact absurd (exec_keeps_error he (by simp) h).1 hleft

theorem exec_rdNext_of_error (he : s.status = .error) : exec .rdNext s = .refused .notEnabled := by
  change execRdNext s = _
  rw [execRdNext, if_neg (by simp [he])]

theorem exec_pixVariant_of_error (he : s.status = .error) (sel : Nat) (x : BitVec 10) (y : BitVec 9) :
    exec (pixVariant sel x y) s = .refused .notEnabled := by
  unfold pixVariant
  split <;> exact unlessError_error he _

end Sys2Proof.Machine

namespace Sys2Proof.Proofs

open Sys2Proof.Machine

/-- Settles O58: every event but a reset and a CMD.START keeps ST where it is ERROR. -/
theorem errorIsLeftOnlyByStartOrReset : Obligations.ErrorIsLeftOnlyByStartOrReset := by
  intro s t hhost he h hleft
  have hidle : s.status ≠ .busy := by simp [he]
  cases hport : s.port with
  | nil =>
    rw [step_of_port_nil hport, decoderStep_idle hidle] at h
    cases h
    exact absurd he hleft
  | cons e rest =>
    rw [hport, List.all_cons, Bool.and_eq_true] at hhost
    cases e with
    | op w =>
      cases hdec : decode w with
      | ok i =>
        rw [step_op_of_decode_ok hport hdec] at h
        obtain ⟨len, rfl⟩ := cmdStart_of_leaves_error (s := { s with port := rest })
          (by simpa [Event.fromHost] using hhost.1) hdec he h hleft
        exact .inr ⟨w, rest, len, rfl, hdec⟩
      | error e => rw [step_op_of_decode_error hport hdec] at h; cases h
    | operands l => cases hhost.1
    | fill a bytes =>
      rw [step_fill hport] at h
      obtain ⟨-, -, rfl⟩ := hostFill_next h
      exact absurd he hleft
    | reset => exact .inl ⟨rest, rfl⟩
    | wait =>
      rw [step_wait_not_busy hport hidle] at h
      cases h
      exact absurd he hleft
    | turn =>
      rw [step_turn hport, decoderStep_idle (s := { s with port := rest }) hidle] at h
      cases h
      exact absurd he hleft

/-- Settles O60: the operations that can raise are refused in ERROR, CMD.START raises again, and no other operation
writes the control state. -/
theorem errorsDoNotNest : Obligations.ErrorsDoNotNest := by
  intro s he
  refine ⟨fun i t hi h => exec_keeps_error he hi h, fun sel => unlessError_error he _,
    fun offset parity => unlessError_error he _, exec_pixVariant_of_error he, exec_rdNext_of_error he,
    fun hhw len hlen => ?start⟩
  case start =>
    refine (execCmdStart_of_other_length hhw (by simp [he]) hlen).trans ?_
    rw [raise, ← he]
    rfl

end Sys2Proof.Proofs
end

section
/-! Reset, and the steps of a decode from its CMD.START to DONE (spec/70_reset_and_hazards.md R150, R158): with nothing
at the port each step is a move of the decoder, and the statements about them (O9, O59). -/

namespace Sys2Proof.Machine

variable {s : State}

/-- A run goes on from where its first steps end. -/
theorem run_add (M : Host.Core) (k n : Nat) {s t : M.State} (h : M.run k s = .next t) :
    M.run (k + n) s = M.run n t := by
  induction k generalizing s with
  | zero => cases h; rw [Nat.zero_add]
  | succ k ih =>
    obtain ⟨u, hu⟩ := run_first M k h
    rw [run_succ M k hu] at h
    rw [Nat.add_right_comm, run_succ M _ hu, ih h]

/-- A set of positions that is the whole raster has as many elements as the raster has cells. -/
theorem length_of_whole_raster {ps : List Pos} {w h : Nat} (hnodup : ps.Nodup)
    (hmem : ∀ p : Pos, p ∈ ps ↔ p.x < w ∧ p.y < h) : ps.length = h * w := by
  rw [← allPositions_length w h]
  exact ((List.perm_ext_iff_of_nodup hnodup (allPositions_nodup w h)).2
    fun p => (hmem p).trans (mem_allPositions w h p).symm).length_eq

/-- As long as positions are pending, a step of a running decode takes one of them out of PEND (R106, R158). -/
theorem State.Decoding.run_pending (k : Nat) {s : State} (hdec : s.Decoding) (hport : s.port = [])
    (hk : k ≤ s.pend.length) :
    ∃ c r p, Sys2Proof.core.run k s = .next { s with choices := c, raster := r, pend := p } ∧
      State.Decoding { s with choices := c, raster := r, pend := p } ∧ p.length = s.pend.length - k := by
  induction k generalizing s with
  | zero => exact ⟨s.choices, s.raster, s.pend, rfl, hdec, rfl⟩
  | succ k ih =>
    have hpend : s.pend ≠ [] := List.length_pos_iff.1 (by omega)
    obtain ⟨c, r, p, hexec, hdec', hlen⟩ := hdec.next hpend
    have hstep : step s = .next { s with choices := c, raster := r, pend := p } := by
      rw [step_of_port_nil hport, decoderStep_of_pending hdec.busy hpend, hexec]
    obtain ⟨c', r', p', hrun, hdec'', hlen'⟩ := ih hdec' hport (show k ≤ p.length by omega)
    refine ⟨c', r', p', (run_succ Sys2Proof.core k hstep).trans hrun, hdec'', ?_⟩
    rw [hlen', ← hlen, Nat.add_sub_add_right]

/-- Where nothing is pending, the step of a running decode is its CMD.DONE (R121). -/
theorem State.Decoding.step_done (hdec : s.Decoding) (hport : s.port = []) (hpend : s.pend = []) :
    step s = .next { s with status := .done } := by
  rw [step_of_port_nil hport, decoderStep_of_none_pending hdec.busy hpend]
  exact execCmdDone_of_enabled hdec.busy hpend

/-- A running decode is complete after one step for each pending position and the CMD.DONE (R158). -/
theorem State.Decoding.run_to_done (hdec : s.Decoding) (hport : s.port = []) :
    ∃ c r, Sys2Proof.core.run (s.pend.length + 1) s =
        .next { s with choices := c, raster := r, pend := [], status := .done } ∧
      State.Decoded { s with choices := c, raster := r, pend := [], status := .done } := by
  obtain ⟨c, r, p, hrun, hdec', hlen⟩ := hdec.run_pending _ hport le_rfl
  obtain rfl : p = [] := List.length_eq_zero_iff.1 (by omega)
  refine ⟨c, r, ?_, hdec'.done rfl⟩
  rw [run_add _ _ 1 hrun]
  exact run_succ Sys2Proof.core 0 (hdec'.step_done hport rfl)

end Sys2Proof.Machine

namespace Sys2Proof.Proofs

open Sys2Proof.Machine

/-- Settles O59: the state meets the invariant of a running decode, whose steps and end are those above. -/
theorem decodeEndsAfterOneStepPerPixelAndDone : Obligations.DecodeEndsAfterOneStepPerPixelAndDone := by
  intro s hhw hbusy hlen hport hraster hnodup hmem
  have hdec := decoding_of_start hhw hbusy hlen hraster hnodup hmem
  have hcount : s.pend.length = 345600 := length_of_whole_raster hnodup hmem
  refine ⟨fun k hk => ?running, ?complete⟩
  case running =>
    obtain ⟨c, r, p, hrun, hdec', hp⟩ := hdec.run_pending k hport (hcount ▸ hk)
    exact ⟨_, hrun, hdec'.busy, hcount ▸ hp⟩
  case complete =>
    obtain ⟨c, r, hrun, hdone⟩ := hdec.run_to_done hport
    rw [hcount] at hrun
    exact ⟨_, hrun, rfl, rfl, rfl, hdone.cells⟩

/-- Settles O9: the step is the reset of R25, and the raster it empties has no cell with a value. -/
theorem resetFromAnyState : Obligations.ResetFromAnyState :=
  fun _ _ hport => ⟨_, step_reset hport, rfl, rfl, rfl, rfl, cell_eq_none_of_raster_nil rfl, rfl, rfl, rfl, rfl, rfl⟩

end Sys2Proof.Proofs
end

section
/-! The words the decoder accepts (spec/30_encoding.md), one rule for each way a word is laid out, each an `iff` so that
it serves both directions; the rows that split a selector; and the statements about them (O1, O2, O3). How an operand
is laid out in bytes is the model's choice (log 2). -/

namespace Sys2Proof

open Sys2Proof.Machine

/-! ## Fields of whole words -/

/-- A Sample Word and its four bytes determine each other (R32). -/
theorem beBytes_eq_iff {w : BitVec 32} {m0 m1 m2 m3 : Byte} :
    beBytes w = [m0, m1, m2, m3] ↔ beWord m0 m1 m2 m3 = w := by
  simp only [beBytes, List.cons.injEq, and_true, ← BitVec.toNat_inj, beWord_toNat, BitVec.extractLsb'_toNat,
    Nat.shiftRight_eq_div_pow]
  omega

/-- A 32-bit operand has the bytes of a Sample Word in the opposite order (log 2). -/
theorem leBytes_eq_iff {v : BitVec 32} {b0 b1 b2 b3 : Byte} :
    leBytes v = [b0, b1, b2, b3] ↔ leWord b0 b1 b2 b3 = v :=
  (List.reverse_inj (xs := beBytes v) (ys := [b3, b2, b1, b0])).trans beBytes_eq_iff

/-- The two bytes of a column, and no others, are read as that column. -/
theorem colOf_eq_some_iff {lo hi : Byte} {x : BitVec 10} : colOf lo hi = some x ↔ colBytes x = [lo, hi] := by
  rw [colOf, Option.ite_none_right_eq_some, Option.some_inj]
  simp only [colBytes, List.cons.injEq, and_true, ← BitVec.toNat_inj, toNat_append_eq_mul_add, BitVec.toNat_setWidth,
    BitVec.extractLsb'_toNat, Nat.shiftRight_eq_div_pow]
  omega

/-- The two bytes of a row, and no others, are read as that row. -/
theorem rowOf_eq_some_iff {lo hi : Byte} {y : BitVec 9} : rowOf lo hi = some y ↔ rowBytes y = [lo, hi] := by
  rw [rowOf, Option.ite_none_right_eq_some, Option.some_inj]
  simp only [rowBytes, List.cons.injEq, and_true, ← BitVec.toNat_inj, toNat_append_eq_mul_add, BitVec.toNat_setWidth,
    BitVec.extractLsb'_toNat, Nat.shiftRight_eq_div_pow]
  omega

/-- A field narrower than its byte, with 0 above it. -/
theorem setWidth_byte_eq_iff {n : Nat} (hn : n ≤ 8) {v : BitVec n} {b : Byte} :
    v.setWidth 8 = b ↔ b.toNat < 2 ^ n ∧ b.setWidth n = v := by
  have hv : v.toNat % 2 ^ 8 = v.toNat := Nat.mod_eq_of_lt (v.isLt.trans_le (Nat.pow_le_pow_right (by decide) hn))
  simp only [← BitVec.toNat_inj, BitVec.toNat_setWidth, hv]
  constructor
  case mp =>
    intro h
    exact ⟨h ▸ v.isLt, h ▸ Nat.mod_eq_of_lt v.isLt⟩
  case mpr =>
    rintro ⟨hlt, h⟩
    exact h.symm.trans (Nat.mod_eq_of_lt hlt)

/-- Two bits in their byte, with 0 above them (R54). -/
theorem selByte_eq_iff {sel : BitVec 2} {b : Byte} : selByte sel = b ↔ b.toNat < 4 ∧ b.setWidth 2 = sel :=
  setWidth_byte_eq_iff (by decide)

@[simp] theorem selByte_toNat (sel : BitVec 2) : (selByte sel).toNat = sel.toNat :=
  BitVec.toNat_setWidth_of_le (by decide)

theorem exists_selByte {b : Byte} (h : b.toNat < 4) : ∃ sel, selByte sel = b := ⟨_, selByte_eq_iff.2 ⟨h, rfl⟩⟩

/-- One bit in its byte, with 0 above it. -/
theorem bitByte_eq_iff {v : BitVec 1} {b : Byte} : v.setWidth 8 = b ↔ b.toNat < 2 ∧ b.setWidth 1 = v :=
  setWidth_byte_eq_iff (by decide)

/-- The operands of a PIX variant: the SEL of its position, inside the raster (R54, R107). -/
theorem pixOperandsOk_iff {n : Nat} {x : BitVec 10} {y : BitVec 9} :
    pixOperandsOk n x y = true ↔
      selNumber x.toNat y.toNat = n ∧ x.toNat < Config.hardwiredW.toNat ∧ y.toNat < Config.hardwiredH.toNat := by
  rw [pixOperandsOk, Bool.and_eq_true, Bool.and_eq_true, beq_iff_eq, decide_eq_true_iff, decide_eq_true_iff, and_assoc]

/-! ## The words of each format -/

variable {bytes : List Byte} {i : Instr}

/-- A SEL word is one byte. -/
theorem decodeSel_eq_ok_iff {k : BitVec 2 → Instr} :
    decodeSel k bytes = .ok i ↔ ∃ sel, bytes = [selByte sel] ∧ k sel = i := by
  constructor
  case mp =>
    intro h
    unfold decodeSel at h
    split at h
    · split at h <;> cases h
      next hlt => exact ⟨_, by rw [selByte_eq_iff.2 ⟨hlt, rfl⟩], rfl⟩
    · cases h
  case mpr =>
    rintro ⟨sel, rfl, rfl⟩
    obtain ⟨hlt, hsel⟩ := selByte_eq_iff.1 (rfl : selByte sel = _)
    rw [decodeSel, if_pos hlt, hsel]

/-- A host command is its event code and the bytes of its operand; the reserved code takes any (R55, log 23). -/
theorem decodeCmd_eq_ok_iff :
    decodeCmd bytes = .ok i ↔
      (bytes = 0#8 :: leBytes 0#32 ∧ .cmdStatus = i) ∨ (∃ len, bytes = 1#8 :: leBytes len ∧ .cmdStart len = i) ∨
      (∃ x y, bytes = 2#8 :: (colBytes x ++ rowBytes y) ∧ .cmdRdpix x y = i) ∨
      (∃ v, bytes = 3#8 :: leBytes v ∧ .cmdReserved = i) := by
  constructor
  case mp =>
    intro h
    unfold decodeCmd at h
    split at h
    next ev b0 b1 b2 b3 =>
      have hev (c : Byte) (hc : ev.toNat = c.toNat) : ev = c := BitVec.eq_of_toNat_eq hc
      split at h
      next hc =>
        split at h <;> cases h
        next hzero => exact .inl ⟨by rw [hev 0#8 hc, leBytes_eq_iff.2 hzero], rfl⟩
      next hc =>
        cases h
        exact .inr (.inl ⟨_, by rw [hev 1#8 hc, leBytes_eq_iff.2 rfl], rfl⟩)
      next hc =>
        split at h <;> cases h
        next hx hy =>
          refine .inr (.inr (.inl ⟨_, _, ?_, rfl⟩))
          rw [hev 2#8 hc, colOf_eq_some_iff.1 hx, rowOf_eq_some_iff.1 hy]
          rfl
      next hc =>
        cases h
        exact .inr (.inr (.inr ⟨_, by rw [hev 3#8 hc, leBytes_eq_iff.2 rfl], rfl⟩))
      · cases h
    · cases h
  case mpr =>
    rintro (⟨rfl, rfl⟩ | ⟨len, rfl, rfl⟩ | ⟨x, y, rfl, rfl⟩ | ⟨v, rfl, rfl⟩)
    · rfl
    · exact congrArg (fun n => Except.ok (Instr.cmdStart n)) (leBytes_eq_iff.1 rfl)
    · have hx : colOf _ _ = some x := colOf_eq_some_iff.2 rfl
      have hy : rowOf _ _ = some y := rowOf_eq_some_iff.2 rfl
      simp only [colBytes, rowBytes, List.cons_append, List.nil_append, decodeCmd, hx, hy]
      rfl
    · rfl

/-- A PIX word is the SEL of its position and the position, inside the raster (R54, R107). -/
theorem decodePix_eq_ok_iff :
    decodePix bytes = .ok i ↔
      ∃ sel x y, bytes = pixBytes sel x y ∧ pixOperandsOk sel.toNat x y = true ∧ pixVariant sel.toNat x y = i := by
  constructor
  case mp =>
    intro h
    unfold decodePix at h
    split at h
    · split at h
      next hx hy =>
        split at h
        · cases h
        next hin =>
          split at h <;> cases h
          next hsel =>
            obtain ⟨hw, hh⟩ := not_or.1 hin
            obtain ⟨sel, rfl⟩ := exists_selByte (hsel ▸ selNumber_lt ..)
            rw [selByte_toNat] at hsel ⊢
            refine ⟨sel, _, _, ?_, pixOperandsOk_iff.2 ⟨hsel.symm, not_le.1 hw, not_le.1 hh⟩, rfl⟩
            rw [pixBytes, colOf_eq_some_iff.1 hx, rowOf_eq_some_iff.1 hy]
            rfl
      · cases h
    · cases h
  case mpr =>
    rintro ⟨sel, x, y, rfl, hok, rfl⟩
    have hx : colOf _ _ = some x := colOf_eq_some_iff.2 rfl
    have hy : rowOf _ _ = some y := rowOf_eq_some_iff.2 rfl
    obtain ⟨hsel, hw, hh⟩ := pixOperandsOk_iff.1 hok
    have hin := not_or.2 ⟨not_le.2 hw, not_le.2 hh⟩
    simp only [pixBytes, colBytes, rowBytes, List.cons_append, List.nil_append, decodePix, hx, hy, selByte_toNat]
    rw [if_neg hin, if_pos hsel.symm]

/-- An EXTRACT word is the parity and the offset. -/
theorem decodeExtract_eq_ok_iff :
    decodeExtract bytes = .ok i ↔
      ∃ (offset : BitVec 32) (parity : BitVec 1),
        bytes = parity.setWidth 8 :: leBytes offset ∧ .extract offset parity = i := by
  constructor
  case mp =>
    intro h
    unfold decodeExtract at h
    split at h
    · split at h <;> cases h
      next hlt => exact ⟨_, _, by rw [bitByte_eq_iff.2 ⟨hlt, rfl⟩, leBytes_eq_iff.2 rfl], rfl⟩
    · cases h
  case mpr =>
    rintro ⟨offset, parity, rfl, rfl⟩
    obtain ⟨hlt, hpar⟩ := bitByte_eq_iff.1 (rfl : parity.setWidth 8 = _)
    rw [leBytes, decodeExtract, if_pos hlt, hpar, leBytes_eq_iff.1 rfl]

/-- A Sample Word stands at the split stage (R51). -/
theorem decode_split_eq_ok_iff : decode ⟨.split, bytes⟩ = .ok i ↔ ∃ word, bytes = beBytes word ∧ .bxSplit word = i := by
  constructor
  case mp =>
    intro h
    simp only [decode] at h
    split at h <;> cases h
    exact ⟨_, (beBytes_eq_iff.2 rfl).symm, rfl⟩
  case mpr =>
    rintro ⟨word, rfl, rfl⟩
    exact congrArg (fun w => Except.ok (Instr.bxSplit w)) (beBytes_eq_iff.1 rfl)

/-- DECODE's word is its length. -/
theorem decode_decode_eq_ok_iff : decode ⟨.decode, bytes⟩ = .ok i ↔ ∃ n, bytes = leBytes n ∧ .decodeFrame n = i := by
  constructor
  case mp =>
    intro h
    simp only [decode] at h
    split at h <;> cases h
    exact ⟨_, (leBytes_eq_iff.2 rfl).symm, rfl⟩
  case mpr =>
    rintro ⟨n, rfl, rfl⟩
    exact congrArg (fun v => Except.ok (Instr.decodeFrame v)) (leBytes_eq_iff.1 rfl)

/-! ## What the encoder makes of a decoded operation -/

/-- The operation a SEL word selects is well-formed and encoded as that word, where this holds of each SEL value. -/
theorem encode_of_decodeSel {slot : Slot} {k : BitVec 2 → Instr} (h : decodeSel k bytes = .ok i)
    (hk : ∀ sel, (k sel).wellFormed = true ∧ encode (k sel) = ⟨slot, [selByte sel]⟩) :
    i.wellFormed = true ∧ (i ≠ .rdNext → i ≠ .cmdReserved → encode i = ⟨slot, bytes⟩) := by
  obtain ⟨sel, rfl, rfl⟩ := decodeSel_eq_ok_iff.1 h
  exact (hk sel).imp_right fun henc _ _ => henc

theorem wellFormed_pixVariant {n : Nat} (hn : n < 4) (x : BitVec 10) (y : BitVec 9) :
    (pixVariant n x y).wellFormed = pixOperandsOk n x y := by
  interval_cases n <;> rfl

theorem encode_pixVariant {n : Nat} (hn : n < 4) (x : BitVec 10) (y : BitVec 9) :
    encode (pixVariant n x y) = ⟨.pix, pixBytes (BitVec.ofNat 2 n) x y⟩ := by
  interval_cases n <;> rfl

end Sys2Proof

namespace Sys2Proof.Proofs

/-- Settles O1, one case for each constructor, by the rule of its format. -/
theorem decodeOfEncodeIsTheInstruction : Obligations.DecodeOfEncodeIsTheInstruction := by
  intro i hwf
  cases i with
  | rdNext => rfl
  | rdRowP0 free | rdRowP1 free | rdColE free | rdColO free | bxLselE free | bxLselO free =>
    simp only [encode, decode]
    exact decodeSel_eq_ok_iff.2 ⟨_, rfl, by revert free; decide⟩
  | rdOffs sel | bxChk sel | bxFetch sel | bxCenter sel | cscR sel | cscG sel | cscB sel | cscBias sel | cscClamp sel
  | cscTrunc sel => exact decodeSel_eq_ok_iff.2 ⟨sel, rfl, rfl⟩
  | bxSplit word => exact decode_split_eq_ok_iff.2 ⟨word, rfl, rfl⟩
  | rdStore | cmdDone | convert | normalize => rfl
  | cmdStatus => exact decodeCmd_eq_ok_iff.2 (.inl ⟨rfl, rfl⟩)
  | cmdStart len => exact decodeCmd_eq_ok_iff.2 (.inr (.inl ⟨len, rfl, rfl⟩))
  | cmdRdpix x y => exact decodeCmd_eq_ok_iff.2 (.inr (.inr (.inl ⟨x, y, rfl, rfl⟩)))
  | cmdReserved => exact decodeCmd_eq_ok_iff.2 (.inr (.inr (.inr ⟨0#32, rfl, rfl⟩)))
  | pixEE x y => exact decodePix_eq_ok_iff.2 ⟨0#2, x, y, rfl, hwf, rfl⟩
  | pixEO x y => exact decodePix_eq_ok_iff.2 ⟨1#2, x, y, rfl, hwf, rfl⟩
  | pixOE x y => exact decodePix_eq_ok_iff.2 ⟨2#2, x, y, rfl, hwf, rfl⟩
  | pixOO x y => exact decodePix_eq_ok_iff.2 ⟨3#2, x, y, rfl, hwf, rfl⟩
  | extract offset parity => exact decodeExtract_eq_ok_iff.2 ⟨offset, parity, rfl, rfl⟩
  | decodeFrame n => exact decode_decode_eq_ok_iff.2 ⟨n, rfl, rfl⟩

/-- Settles O2, one case for each place a word can stand at, by the rule of its format. -/
theorem decodedWordIsWellFormedAndUnique : Obligations.DecodedWordIsWellFormedAndUnique := by
  rintro ⟨slot, bytes⟩ i h
  cases slot with
  | next =>
    simp only [decode] at h
    obtain ⟨sel, -, rfl⟩ := decodeSel_eq_ok_iff.1 h
    exact ⟨rfl, fun hnext => absurd rfl hnext⟩
  | row | col | lsel =>
    simp only [decode] at h
    exact encode_of_decodeSel h (by decide)
  | offs | chk | fetch | center | cscR | cscG | cscB | bias | clamp | trunc =>
    exact encode_of_decodeSel h fun _ => ⟨rfl, rfl⟩
  | split =>
    obtain ⟨word, rfl, rfl⟩ := decode_split_eq_ok_iff.1 h
    exact ⟨rfl, fun _ _ => rfl⟩
  | store | done | convert | normalize =>
    simp only [decode] at h
    split at h <;> cases h
    exact ⟨rfl, fun _ _ => rfl⟩
  | cmd =>
    rcases decodeCmd_eq_ok_iff.1 h with ⟨rfl, rfl⟩ | ⟨len, rfl, rfl⟩ | ⟨x, y, rfl, rfl⟩ | ⟨v, -, rfl⟩
    case inr.inr.inr => exact ⟨rfl, fun _ hreserved => absurd rfl hreserved⟩
    all_goals exact ⟨rfl, fun _ _ => rfl⟩
  | pix =>
    obtain ⟨sel, x, y, rfl, hok, rfl⟩ := decodePix_eq_ok_iff.1 h
    refine ⟨(wellFormed_pixVariant sel.isLt x y).trans hok, fun _ _ => ?_⟩
    rw [encode_pixVariant sel.isLt, BitVec.ofNat_toNat, BitVec.setWidth_eq]
  | extract =>
    obtain ⟨offset, parity, rfl, rfl⟩ := decodeExtract_eq_ok_iff.1 h
    exact ⟨rfl, fun _ _ => rfl⟩
  | decode =>
    obtain ⟨n, rfl, rfl⟩ := decode_decode_eq_ok_iff.1 h
    exact ⟨rfl, fun _ _ => rfl⟩

/-- Settles O3: the table and the four values are finite, so the rows are counted. -/
theorem rowsPartitionTheirSelector : Obligations.RowsPartitionTheirSelector := by
  unfold Obligations.RowsPartitionTheirSelector
  decide

end Sys2Proof.Proofs
end

section
/-! Operations run alone where their rules do not speak (logs 13, 14, 15, 16, 17), and the statements about them (O16,
O22). -/

namespace Sys2Proof.Machine

variable {s : State}

theorem oddRowIdx_of_ne_zero {y : Nat} (hy : y ≠ 0) : oddRowIdx y = (y - 1) / 2 := if_neg hy

theorem oddPairOff_of_ne_zero {x : Nat} (hx : x ≠ 0) : oddPairOff x = (x - 1) * 2 := if_neg hx

/-- RD.NEXT needs a running decode with a pending position (R106); where it is not enabled it is refused (log 13). -/
theorem exec_rdNext_of_not_enabled (h : s.status ≠ .busy ∨ s.pend = []) : exec .rdNext s = .refused .notEnabled := by
  change execRdNext s = _
  unfold execRdNext
  rcases h with hbusy | hpend
  · rw [if_neg hbusy]
  · simp only [hpend, List.getElem?_nil, ite_self]

/-- CMD.DONE needs a running decode with nothing pending (R121); where it is not enabled it is refused (log 13). -/
theorem execCmdDone_of_not_enabled (h : s.status ≠ .busy ∨ s.pend ≠ []) : execCmdDone s = .refused .notEnabled :=
  if_neg (not_and_or.2 h)

/-- The raster space has no cell outside the dimensions (R38, log 14). -/
theorem storePixel_of_outside {x y : Nat} (p : Pixel) (hout : ¬ (x < s.cfgW.toNat ∧ y < s.cfgH.toNat)) :
    storePixel x y p s = .fault .rasterOutOfRange := if_neg (mt (inRaster_iff s x y).1 hout)

/-- Beyond LEN there is no word to fetch (R31, log 14). -/
theorem exec_bxFetch_of_beyond (sel : BitVec 2) (hbeyond : s.len.toNat < s.lat.offset + 4) :
    exec (.bxFetch sel) s = .fault .sourceOutOfRange := if_neg (by simp [offsetOk_iff, hbeyond])

end Sys2Proof.Machine

namespace Sys2Proof.Proofs

open Sys2Proof.Machine

/-- Settles O16: no operation looks at the parity its rule speaks of; the value at 0 is the free one. -/
theorem parityOperationsCompleteOutsideTheirRange : Obligations.ParityOperationsCompleteOutsideTheirRange := by
  intro b s
  refine ⟨fun _ => rfl, fun _ => ?oddRow, fun _ => rfl, fun _ => ?oddColumn, fun _ => rfl, fun _ => rfl⟩
  case oddRow => exact ⟨oddRowIdx s.lat.y, oddRowIdx_of_ne_zero, rfl⟩
  case oddColumn => exact ⟨oddPairOff s.lat.x, oddPairOff_of_ne_zero, rfl⟩

/-- Settles O22, from the rule of each operation where it does not run as its own rule says. -/
theorem operationsRunAloneOutsideTheirRules : Obligations.OperationsRunAloneOutsideTheirRules := by
  intro s
  refine ⟨exec_rdNext_of_not_enabled, execCmdDone_of_not_enabled, fun r g b => storePixel_of_outside ⟨r, g, b⟩,
    exec_bxFetch_of_beyond, fun sel => ⟨_, _, _, rfl⟩, fun sel hst hbeyond => ?raise⟩
  case raise =>
    have he : s.status ≠ .error := by rcases hst with hst | hst <;> simp [hst]
    exact exec_bxChk_of_beyond sel he ((offsetOk_eq_false_iff ..).2 hbeyond)

end Sys2Proof.Proofs
end

section
/-! The order of the pixels where no free choice is left (spec/42_raster_decoder.md R106, D6, log 5), and the statement
about it (O21). -/

namespace Sys2Proof.Machine

variable {s : State}

/-- With no free choice left RD.NEXT draws the first pending position. -/
theorem choiceIndex_of_choices_nil (hchoices : s.choices = []) : s.choiceIndex = 0 := by
  rw [State.choiceIndex, hchoices]
  exact Nat.zero_mod _

/-- With no free choice left RD.NEXT stores the pixel of the first pending position and takes that position off. -/
theorem exec_rdNext_of_choices_nil {p : Pos} {ps : List Pos} (hbusy : s.status = .busy) (hchoices : s.choices = [])
    (hpend : s.pend = p :: ps) (hx : p.x < s.cfgW.toNat) (hy : p.y < s.cfgH.toNat)
    (hlen : closedOffset s.cfgW.toNat s.cfgH.toNat p.x p.y + 4 ≤ s.len.toNat) :
    exec .rdNext s = .next { s with
      raster := assocWrite s.raster (s.cellIndex p.x p.y) (closedPixel s p.x p.y), pend := ps } := by
  have hindex := choiceIndex_of_choices_nil hchoices
  have hdraw : s.pend[s.choiceIndex]? = some p := by rw [hindex, hpend, List.getElem?_cons_zero]
  rw [exec_rdNext_of_ok hbusy hdraw hx hy hlen, hindex, hpend, hchoices]
  rfl

theorem rowPositions_getElem? {w x : Nat} (y : Nat) (hx : x < w) : (rowPositions w y)[x]? = some ⟨x, y⟩ := by
  simp [rowPositions, hx]

theorem allPositions_succ (w h : Nat) : allPositions w (h + 1) = allPositions w h ++ rowPositions w h := by
  simp [allPositions, List.range_succ]

/-- `(x, y)` stands at its linear cell index (R38): row `y` begins after `y` rows of `w` positions. -/
theorem allPositions_getElem? {w h x y : Nat} (hx : x < w) (hy : y < h) :
    (allPositions w h)[y * w + x]? = some ⟨x, y⟩ := by
  induction h with
  | zero => cases hy
  | succ h ih =>
    rw [allPositions_succ]
    rcases Nat.lt_succ_iff_lt_or_eq.1 hy with hy | rfl
    · have hlt : y * w + x < (allPositions w h).length := by
        rw [allPositions_length, Nat.mul_comm y]
        exact Nat.mul_add_lt_mul_of_lt_of_lt hy hx
      rw [List.getElem?_append_left hlt, ih hy]
    · rw [List.getElem?_append_right (by simp [allPositions_length]), allPositions_length, Nat.add_sub_cancel_left,
        rowPositions_getElem? y hx]

end Sys2Proof.Machine

namespace Sys2Proof.Proofs

open Sys2Proof.Machine

/-- Settles O21: the index drawn is 0, so the first position is taken off; CMD.START lists `allPositions`. -/
theorem nextWithoutFreeChoicesIsRowMajor : Obligations.NextWithoutFreeChoicesIsRowMajor := by
  refine ⟨fun s p ps hbusy hchoices hpend hx hy hlen => ?next, fun s hhw hst => ?start,
    fun w h x y => allPositions_getElem?⟩
  case next =>
    have he : s.status ≠ .error := by simp [hbusy]
    exact ⟨_, (exec_pix_of_pos hx hy).trans (runPixel_selOf_of_ok he hx hy hlen),
      exec_rdNext_of_choices_nil hbusy hchoices hpend hx hy hlen⟩
  case start => exact ⟨_, execCmdStart_of_frame_length hhw hst, by dsimp only, rfl⟩

end Sys2Proof.Proofs
end
